-- ==== Sys2Proof/Word.lean ====
section
/-! DEFINITION. The bit-vector types of the machine (00_scope.md section 6): what the spec adds, shifts, masks or slices. -/

namespace Sys2Proof

/-- One byte: the width of a general register, a timer and a memory cell (R20, R29, R35). -/
abbrev Byte := BitVec 8

/-- Sixteen bits: the instruction word, I, pc and a call-stack slot (R22, R23, R26, R70). -/
abbrev Word := BitVec 16

/-- A register number, the X or Y field of the instruction word (R71). -/
abbrev RegId := BitVec 4

/-- The NNN field, a 12-bit address immediate (R71). -/
abbrev Addr := BitVec 12

/-- The N field, a 4-bit immediate (R71). -/
abbrev Nibble := BitVec 4

end Sys2Proof
end

