-- ==== Sys2Proof/Config.lean ====
section
/-! DEFINITION. The sizes R4 fixes, and the one open value of the spec: the random byte of `CXNN`. -/

namespace Sys2Proof

/-- MEM_SIZE: 4096 bytes, addresses 0x000 to 0xFFF (R4, R50). -/
abbrev Config.memSize : Nat := 0x1000

/-- RESET_PC: the entry point (R4, R211). -/
abbrev Config.resetPc : Word := 0x0200#16

/-- FONT_BASE: the address of glyph 0 (R4). -/
abbrev Config.fontBase : Word := 0x0000#16

/-- PROG_BASE: where `load_program` copies the image (R4, R212). -/
abbrev Config.progBase : Nat := 0x200

/-- PROG_MAX: the longest image, 0xE00 bytes (R4, R212). -/
abbrev Config.progMax : Nat := 0xE00

/-- RND, the free value (R5, R166, decision D18 of the spec, DESIGN CHOICE, log entry 2): the byte the random source outside the core delivers for
the n-th completed `CXNN`.  It has no body, so nothing can be proved about its value: a claim about `CXNN` holds for
every sequence of bytes. -/
opaque Config.randomByte : Nat → Byte

end Sys2Proof
end

