-- ==== Sys2Proof/Syntax.lean ====
section
/-! DEFINITION. The instruction set as syntax: one constructor per row of the opcode table (R75), named by its normative
hexadecimal pattern (R80), with the operand fields the row's format gives it (R71 to R73). -/

namespace Sys2Proof

/-- The 34 instructions, in the table's order.  The comment beside each constructor is the reading-aid mnemonic of R75. -/
inductive Instr where
  | op00E0                            -- CLS
  | op00EE                            -- RET
  | op1NNN (nnn : Addr)               -- JP NNN
  | op2NNN (nnn : Addr)               -- CALL NNN
  | op3XNN (x : RegId) (nn : Byte)    -- SE VX, NN
  | op4XNN (x : RegId) (nn : Byte)    -- SNE VX, NN
  | op5XY0 (x y : RegId)              -- SE VX, VY
  | op6XNN (x : RegId) (nn : Byte)    -- LD VX, NN
  | op7XNN (x : RegId) (nn : Byte)    -- ADD VX, NN
  | op8XY0 (x y : RegId)              -- LD VX, VY
  | op8XY1 (x y : RegId)              -- OR VX, VY
  | op8XY2 (x y : RegId)              -- AND VX, VY
  | op8XY3 (x y : RegId)              -- XOR VX, VY
  | op8XY4 (x y : RegId)              -- ADD VX, VY
  | op8XY5 (x y : RegId)              -- SUB VX, VY
  | op8XY6 (x y : RegId)              -- SHR VX; the Y field is decoded and unused (R77)
  | op8XY7 (x y : RegId)              -- SUBN VX, VY
  | op8XYE (x y : RegId)              -- SHL VX; the Y field is decoded and unused (R77)
  | op9XY0 (x y : RegId)              -- SNE VX, VY
  | opANNN (nnn : Addr)               -- LD I, NNN
  | opBNNN (nnn : Addr)               -- JP V0, NNN
  | opCXNN (x : RegId) (nn : Byte)    -- RND VX, NN
  | opDXYN (x y : RegId) (n : Nibble) -- DRW VX, VY, N
  | opEX9E (x : RegId)                -- SKP VX
  | opEXA1 (x : RegId)                -- SKNP VX
  | opFX07 (x : RegId)                -- LD VX, DT
  | opFX0A (x : RegId)                -- LD VX, K
  | opFX15 (x : RegId)                -- LD DT, VX
  | opFX18 (x : RegId)                -- LD ST, VX
  | opFX1E (x : RegId)                -- ADD I, VX
  | opFX29 (x : RegId)                -- LD F, VX
  | opFX33 (x : RegId)                -- LD B, VX
  | opFX55 (x : RegId)                -- LD [I], VX
  | opFX65 (x : RegId)                -- LD VX, [I]
  deriving DecidableEq, Repr

end Sys2Proof
end

