-- ==== Sys2Proof/WellFormed.lean ====
section
/-! DEFINITION. Well-formedness of what the outside hands to the core.

An instruction term needs no check: each operand field has exactly the width R71 gives it, and every value of every field
is a legal operand ("there are no reserved register numbers", 93_implementation_defined.md).  The checks that remain are
those of the two host events that can be given a bad argument: a key identifier (R197, R198) and a program image (R212). -/

namespace Sys2Proof

/-- Every instruction term is well formed: its fields' types already say so.  One arm per constructor, so that a new
constructor cannot pass unnoticed. -/
def Instr.wellFormed : Instr → Bool
  | .op00E0 | .op00EE => true
  | .op1NNN _ | .op2NNN _ | .opANNN _ | .opBNNN _ => true
  | .op3XNN _ _ | .op4XNN _ _ | .op6XNN _ _ | .op7XNN _ _ | .opCXNN _ _ => true
  | .op5XY0 _ _ | .op9XY0 _ _ => true
  | .op8XY0 _ _ | .op8XY1 _ _ | .op8XY2 _ _ | .op8XY3 _ _ | .op8XY4 _ _ => true
  | .op8XY5 _ _ | .op8XY6 _ _ | .op8XY7 _ _ | .op8XYE _ _ => true
  | .opDXYN _ _ _ => true
  | .opEX9E _ | .opEXA1 _ => true
  | .opFX07 _ | .opFX0A _ | .opFX15 _ | .opFX18 _ | .opFX1E _ => true
  | .opFX29 _ | .opFX33 _ | .opFX55 _ | .opFX65 _ => true

/-- A key identifier names one of the 16 keys (R197, R198: "id > 0xF" is refused). -/
def keyIdWellFormed (id : Byte) : Bool := decide (id.toNat ≤ 0xF)

/-- A program image fits in the program area (R212: at most 0xE00 bytes; zero bytes and exactly 0xE00 are accepted). -/
def imageWellFormed (bytes : List Byte) : Bool := decide (bytes.length ≤ Config.progMax)

end Sys2Proof
end

