-- ==== Sys2Proof/Decode.lean ====
section
/-! DEFINITION. Decoding (R70 to R79), total on any bytes and rejecting by name, then the encoder written from the same
table (R72, R75), and the table itself as rows of mask and match. -/

namespace Sys2Proof

/-- OP = w[15:12], the primary opcode (R71). -/
def opField (w : Word) : Nibble := w.extractLsb' 12 4

/-- X = w[11:8] (R71). -/
def xField (w : Word) : RegId := w.extractLsb' 8 4

/-- Y = w[7:4] (R71). -/
def yField (w : Word) : RegId := w.extractLsb' 4 4

/-- N = w[3:0] (R71). -/
def nField (w : Word) : Nibble := w.extractLsb' 0 4

/-- NN = w[7:0] (R71). -/
def nnField (w : Word) : Byte := w.extractLsb' 0 8

/-- NNN = w[11:0] (R71). -/
def nnnField (w : Word) : Addr := w.extractLsb' 0 12

/-- Primary opcode 0x0 is decided by the whole word: only 0x00E0 and 0x00EE exist (R74, 90_conflicts.md C1). -/
def decodeFixed (w : Word) : Option Instr :=
  match w with
  | 0x00E0#16 => some .op00E0
  | 0x00EE#16 => some .op00EE
  | _ => none

/-- Primary opcode 0x8 is decided by N (R74). -/
def decodeAlu (x y : RegId) (n : Nibble) : Option Instr :=
  match n with
  | 0x0#4 => some (.op8XY0 x y)
  | 0x1#4 => some (.op8XY1 x y)
  | 0x2#4 => some (.op8XY2 x y)
  | 0x3#4 => some (.op8XY3 x y)
  | 0x4#4 => some (.op8XY4 x y)
  | 0x5#4 => some (.op8XY5 x y)
  | 0x6#4 => some (.op8XY6 x y)
  | 0x7#4 => some (.op8XY7 x y)
  | 0xE#4 => some (.op8XYE x y)
  | _ => none

/-- Primary opcode 0xE is decided by NN (R74). -/
def decodeKey (x : RegId) (nn : Byte) : Option Instr :=
  match nn with
  | 0x9E#8 => some (.opEX9E x)
  | 0xA1#8 => some (.opEXA1 x)
  | _ => none

/-- Primary opcode 0xF is decided by NN (R74). -/
def decodeMisc (x : RegId) (nn : Byte) : Option Instr :=
  match nn with
  | 0x07#8 => some (.opFX07 x)
  | 0x0A#8 => some (.opFX0A x)
  | 0x15#8 => some (.opFX15 x)
  | 0x18#8 => some (.opFX18 x)
  | 0x1E#8 => some (.opFX1E x)
  | 0x29#8 => some (.opFX29 x)
  | 0x33#8 => some (.opFX33 x)
  | 0x55#8 => some (.opFX55 x)
  | 0x65#8 => some (.opFX65 x)
  | _ => none

/-- `Decode(w)` of R74: dispatch on the high nibble, then on the low nibble or low byte.  `none` is "no row matches". -/
def decodeWord (w : Word) : Option Instr :=
  match opField w with
  | 0x0#4 => decodeFixed w
  | 0x1#4 => some (.op1NNN (nnnField w))
  | 0x2#4 => some (.op2NNN (nnnField w))
  | 0x3#4 => some (.op3XNN (xField w) (nnField w))
  | 0x4#4 => some (.op4XNN (xField w) (nnField w))
  | 0x5#4 => if nField w = 0x0#4 then some (.op5XY0 (xField w) (yField w)) else none
  | 0x6#4 => some (.op6XNN (xField w) (nnField w))
  | 0x7#4 => some (.op7XNN (xField w) (nnField w))
  | 0x8#4 => decodeAlu (xField w) (yField w) (nField w)
  | 0x9#4 => if nField w = 0x0#4 then some (.op9XY0 (xField w) (yField w)) else none
  | 0xA#4 => some (.opANNN (nnnField w))
  | 0xB#4 => some (.opBNNN (nnnField w))
  | 0xC#4 => some (.opCXNN (xField w) (nnField w))
  | 0xD#4 => some (.opDXYN (xField w) (yField w) (nField w))
  | 0xE#4 => decodeKey (xField w) (nnField w)
  | 0xF#4 => decodeMisc (xField w) (nnField w)
  | _ => none

/-- What the decoder answers on a sequence of bytes. -/
inductive Decoded where
  /-- An instruction, and the bytes after it. -/
  | insn (i : Instr) (rest : List Byte)
  /-- The first two bytes make a word that matches no row (R76). -/
  | illegal (w : Word)
  /-- Fewer than two bytes: no word (R70: every instruction is exactly 16 bits). -/
  | truncated
  deriving DecidableEq, Repr

/-- The word of two consecutive bytes, the first being bits 15:8 (R56, R70). -/
def wordOfBytes (hi lo : Byte) : Word := hi ++ lo

/-- Decoding of a sequence of bytes. -/
def decode : List Byte → Decoded
  | hi :: lo :: rest =>
    match decodeWord (wordOfBytes hi lo) with
    | some i => .insn i rest
    | none => .illegal (wordOfBytes hi lo)
  | _ => .truncated

/-! ### The encoder -/

/-- The format ADDR (R72): OP ++ NNN. -/
def encodeAddr (op : Nibble) (nnn : Addr) : Word := op ++ nnn

/-- The format REG_IMM (R72): OP ++ X ++ NN; also REG_SUB, with the sub-opcode in the place of NN. -/
def encodeRegByte (op : Nibble) (x : RegId) (nn : Byte) : Word := op ++ (x ++ nn)

/-- The formats REG_REG and REG_REG_N (R72): OP ++ X ++ Y ++ N. -/
def encodeRegReg (op : Nibble) (x y : RegId) (n : Nibble) : Word := op ++ (x ++ (y ++ n))

/-- The word of an instruction, from the patterns of R75. -/
def encode : Instr → Word
  | .op00E0 => 0x00E0#16
  | .op00EE => 0x00EE#16
  | .op1NNN nnn => encodeAddr 0x1#4 nnn
  | .op2NNN nnn => encodeAddr 0x2#4 nnn
  | .op3XNN x nn => encodeRegByte 0x3#4 x nn
  | .op4XNN x nn => encodeRegByte 0x4#4 x nn
  | .op5XY0 x y => encodeRegReg 0x5#4 x y 0x0#4
  | .op6XNN x nn => encodeRegByte 0x6#4 x nn
  | .op7XNN x nn => encodeRegByte 0x7#4 x nn
  | .op8XY0 x y => encodeRegReg 0x8#4 x y 0x0#4
  | .op8XY1 x y => encodeRegReg 0x8#4 x y 0x1#4
  | .op8XY2 x y => encodeRegReg 0x8#4 x y 0x2#4
  | .op8XY3 x y => encodeRegReg 0x8#4 x y 0x3#4
  | .op8XY4 x y => encodeRegReg 0x8#4 x y 0x4#4
  | .op8XY5 x y => encodeRegReg 0x8#4 x y 0x5#4
  | .op8XY6 x y => encodeRegReg 0x8#4 x y 0x6#4
  | .op8XY7 x y => encodeRegReg 0x8#4 x y 0x7#4
  | .op8XYE x y => encodeRegReg 0x8#4 x y 0xE#4
  | .op9XY0 x y => encodeRegReg 0x9#4 x y 0x0#4
  | .opANNN nnn => encodeAddr 0xA#4 nnn
  | .opBNNN nnn => encodeAddr 0xB#4 nnn
  | .opCXNN x nn => encodeRegByte 0xC#4 x nn
  | .opDXYN x y n => encodeRegReg 0xD#4 x y n
  | .opEX9E x => encodeRegByte 0xE#4 x 0x9E#8
  | .opEXA1 x => encodeRegByte 0xE#4 x 0xA1#8
  | .opFX07 x => encodeRegByte 0xF#4 x 0x07#8
  | .opFX0A x => encodeRegByte 0xF#4 x 0x0A#8
  | .opFX15 x => encodeRegByte 0xF#4 x 0x15#8
  | .opFX18 x => encodeRegByte 0xF#4 x 0x18#8
  | .opFX1E x => encodeRegByte 0xF#4 x 0x1E#8
  | .opFX29 x => encodeRegByte 0xF#4 x 0x29#8
  | .opFX33 x => encodeRegByte 0xF#4 x 0x33#8
  | .opFX55 x => encodeRegByte 0xF#4 x 0x55#8
  | .opFX65 x => encodeRegByte 0xF#4 x 0x65#8

/-- The two bytes of a word as memory holds them, the high byte at the lower address (R56). -/
def bytesOfWord (w : Word) : List Byte := [w.extractLsb' 8 8, w.extractLsb' 0 8]

/-! ### The opcode table as data -/

/-- One row of R75: a word w is the row's instruction iff w & mask = match. -/
structure Row where
  pattern : Word
  mask    : Word
  deriving DecidableEq, Repr

/-- Whether a word matches a row. -/
def Row.accepts (r : Row) (w : Word) : Bool := (w &&& r.mask) == r.pattern

/-- The row of R75 an instruction belongs to, with the match and mask columns as the table prints them. -/
def Instr.row : Instr → Row
  | .op00E0 => ⟨0x00E0#16, 0xFFFF#16⟩
  | .op00EE => ⟨0x00EE#16, 0xFFFF#16⟩
  | .op1NNN _ => ⟨0x1000#16, 0xF000#16⟩
  | .op2NNN _ => ⟨0x2000#16, 0xF000#16⟩
  | .op3XNN _ _ => ⟨0x3000#16, 0xF000#16⟩
  | .op4XNN _ _ => ⟨0x4000#16, 0xF000#16⟩
  | .op5XY0 _ _ => ⟨0x5000#16, 0xF00F#16⟩
  | .op6XNN _ _ => ⟨0x6000#16, 0xF000#16⟩
  | .op7XNN _ _ => ⟨0x7000#16, 0xF000#16⟩
  | .op8XY0 _ _ => ⟨0x8000#16, 0xF00F#16⟩
  | .op8XY1 _ _ => ⟨0x8001#16, 0xF00F#16⟩
  | .op8XY2 _ _ => ⟨0x8002#16, 0xF00F#16⟩
  | .op8XY3 _ _ => ⟨0x8003#16, 0xF00F#16⟩
  | .op8XY4 _ _ => ⟨0x8004#16, 0xF00F#16⟩
  | .op8XY5 _ _ => ⟨0x8005#16, 0xF00F#16⟩
  | .op8XY6 _ _ => ⟨0x8006#16, 0xF00F#16⟩
  | .op8XY7 _ _ => ⟨0x8007#16, 0xF00F#16⟩
  | .op8XYE _ _ => ⟨0x800E#16, 0xF00F#16⟩
  | .op9XY0 _ _ => ⟨0x9000#16, 0xF00F#16⟩
  | .opANNN _ => ⟨0xA000#16, 0xF000#16⟩
  | .opBNNN _ => ⟨0xB000#16, 0xF000#16⟩
  | .opCXNN _ _ => ⟨0xC000#16, 0xF000#16⟩
  | .opDXYN _ _ _ => ⟨0xD000#16, 0xF000#16⟩
  | .opEX9E _ => ⟨0xE09E#16, 0xF0FF#16⟩
  | .opEXA1 _ => ⟨0xE0A1#16, 0xF0FF#16⟩
  | .opFX07 _ => ⟨0xF007#16, 0xF0FF#16⟩
  | .opFX0A _ => ⟨0xF00A#16, 0xF0FF#16⟩
  | .opFX15 _ => ⟨0xF015#16, 0xF0FF#16⟩
  | .opFX18 _ => ⟨0xF018#16, 0xF0FF#16⟩
  | .opFX1E _ => ⟨0xF01E#16, 0xF0FF#16⟩
  | .opFX29 _ => ⟨0xF029#16, 0xF0FF#16⟩
  | .opFX33 _ => ⟨0xF033#16, 0xF0FF#16⟩
  | .opFX55 _ => ⟨0xF055#16, 0xF0FF#16⟩
  | .opFX65 _ => ⟨0xF065#16, 0xF0FF#16⟩

/-- The 34 rows of R75 in the table's order, each read off one of its instructions. -/
def opcodeTable : List Row :=
  [Instr.op00E0, .op00EE, .op1NNN 0, .op2NNN 0, .op3XNN 0 0, .op4XNN 0 0, .op5XY0 0 0, .op6XNN 0 0, .op7XNN 0 0,
   .op8XY0 0 0, .op8XY1 0 0, .op8XY2 0 0, .op8XY3 0 0, .op8XY4 0 0, .op8XY5 0 0, .op8XY6 0 0, .op8XY7 0 0, .op8XYE 0 0,
   .op9XY0 0 0, .opANNN 0, .opBNNN 0, .opCXNN 0 0, .opDXYN 0 0 0, .opEX9E 0, .opEXA1 0, .opFX07 0, .opFX0A 0,
   .opFX15 0, .opFX18 0, .opFX1E 0, .opFX29 0, .opFX33 0, .opFX55 0, .opFX65 0].map Instr.row

/-! ### The host's question: a word numbered as spec/opcode_table.json numbers it -/

/-- The word the table's number w stands for: its low `nbits` bits, every bit above them 0. -/
def tableWord (nbits w : Nat) : Word := BitVec.ofNat 16 (w % 2 ^ nbits)

/-- The instruction the decoder reads from the bytes of that word, laid out as memory holds them. -/
def decodeTableWord (nbits w : Nat) : Option Instr :=
  match decode (bytesOfWord (tableWord nbits w)) with
  | .insn i _ => some i
  | .illegal _ => none
  | .truncated => none

end Sys2Proof
end

