-- ==== Sys2Proof/Machine/State.lean ====
section
/-! DEFINITION. The machine's state as plain data (10_state.md), the reasons an event can stop (R180 to R185), and the
state after reset (R38). -/

namespace Sys2Proof.Machine

/-- The two states of the engine (R34). -/
inductive Mode where
  | running
  | awaitingKey
  deriving DecidableEq, Repr

/-- Main memory (R35, R50): the bytes that differ from the reset contents, as (address, byte) pairs in rising order of
address.  What an unlisted address reads as, and the canonical form, are in Machine/Ops.lean. -/
abbrev Memory := List Host.Cell

/-- The framebuffer (R32): 32 rows of 64 one-bit cells; cell (x, y) is row y, column x. -/
abbrev Framebuffer := Vector (Vector Bool 64) 32

/-- Every piece of state the spec gives the core (R20 to R38), and last the model's own counter of random draws. -/
structure State where
  /-- V0 to VF (R20, R21). -/
  v      : Vector Byte 16
  /-- The index register I (R22). -/
  i      : Word
  /-- The program counter (R23). -/
  pc     : Word
  /-- The call-stack slots STACK[0] to STACK[15] (R26). -/
  stack  : Vector Word 16
  /-- The depth counter SP, 0 to 16 (R26, log entry 15). -/
  sp     : Fin 17
  /-- The delay timer DT (R29). -/
  dt     : Byte
  /-- The sound timer ST (R29). -/
  st     : Byte
  /-- The keypad latch KEY[0] to KEY[15]; true means held down (R30). -/
  keys   : Vector Bool 16
  /-- The framebuffer FB (R32). -/
  fb     : Framebuffer
  /-- The redraw signal REDRAW (R33). -/
  redraw : Bool
  /-- The engine state MODE (R34). -/
  mode   : Mode
  /-- WREG, the X field of the FX0A being waited on (R34); without meaning while MODE is running
  (DESIGN CHOICE, log entry 14). -/
  wreg   : RegId
  /-- Main memory MEM (R35). -/
  mem    : Memory
  /-- The model's own field (DESIGN CHOICE, log entry 2): how many random bytes have been drawn, the index of the next free value. -/
  draws  : Nat
  deriving DecidableEq, Repr

/-- The reason of an `InvalidOpcode` fault (R180, R182, decision D10). -/
inductive InvalidReason where
  | noDecodeRule
  | addressOutOfRange
  deriving DecidableEq, Repr

/-- The fault records (R180, R181).  Each is the result the spec itself gives the event, which changes no state (R186):
safe, since nothing is claimed after it. -/
inductive Fault where
  /-- Raised by a step whose word matches no row, whose fetch is out of range (word 0x0000), or whose instruction
  (`DXYN`, `FX33`, `FX55`, `FX65`) would access an address above 0xFFF (R182).  Safe. -/
  | invalidOpcode (reason : InvalidReason) (word pc : Word)
  /-- Raised by a step executing `2NNN` when SP = 16 (R183).  Safe. -/
  | stackOverflow (word pc : Word)
  /-- Raised by a step executing `00EE` when SP = 0 (R184).  Safe. -/
  | stackUnderflow (word pc : Word)
  /-- Raised by the key_press and key_release events when id > 0xF (R185, R197, R198).  Never by a step.  Safe. -/
  | invalidKey (id : Byte)
  /-- Raised by the load_program event for an image longer than 0xE00 bytes (R185, R212).  Never by a step.  Safe. -/
  | programTooLarge (length : Nat)
  deriving DecidableEq, Repr

/-- Why the model declines to answer. -/
inductive Refusal where
  /-- An instruction without a meaning yet; raised by an arm of exec only.  No arm raises it now.  Safe. -/
  | notModelled (mnemonic : String)
  /-- Raised by the load_program event after the first step (R213, 93_implementation_defined.md U11: outside the spec's
  model, no transition is given).  Never by a step.  Safe. -/
  | loadAfterFirstStep
  deriving DecidableEq, Repr

/-- The outcome of one step. -/
abbrev Result := Host.Outcome State Fault Refusal

/-- The machine after the reset event (R38, R210).  pc is the document's; the zeros and `running` are decision D2 of the
spec (DESIGN CHOICE, log entry 3); memory lists nothing, so it reads as the reset contents (R51, log entries 1 and 4). -/
def State.reset : State where
  v      := Vector.replicate 16 0#8
  i      := 0#16
  pc     := Config.resetPc
  stack  := Vector.replicate 16 0#16
  sp     := 0
  dt     := 0#8
  st     := 0#8
  keys   := Vector.replicate 16 false
  fb     := Vector.replicate 32 (Vector.replicate 64 false)
  redraw := false
  mode   := .running
  wreg   := 0#4
  mem    := []
  draws  := 0

end Sys2Proof.Machine
end

