-- ==== Sys2Proof/Machine/Ops.lean ====
section
/-! DEFINITION. The named operations over registers, the stack, memory, the framebuffer and the keypad latch, and taking
a fault.  Every instruction's meaning is written over these. -/

namespace Sys2Proof.Machine

/-! ### General registers, I, pc, timers, engine state -/

/-- `V[x]` (R20). -/
def State.reg (s : State) (x : RegId) : Byte := s.v[x.toNat]

/-- `V[x] <- b` (R20). -/
def State.setReg (s : State) (x : RegId) (b : Byte) : State := { s with v := s.v.set x.toNat b }

/-- `V[k] <- bs[k]` for every k below the length of bs; the registers above keep their values (R145). -/
def State.setRegs (s : State) (bs : List Byte) : State :=
  { s with v := Vector.ofFn fun k => (bs[k.val]?).getD s.v[k] }

/-- `V[0]` to `V[x]`, x + 1 bytes in ascending order (R144). -/
def State.regsUpTo (s : State) (x : RegId) : List Byte := s.v.toList.take (x.toNat + 1)

/-- `I <- w` (R22). -/
def State.setI (s : State) (w : Word) : State := { s with i := w }

/-- `pc <- w`; no alignment or range is checked (R23, R58, log entry 9). -/
def State.setPc (s : State) (w : Word) : State := { s with pc := w }

/-- `DT <- b` (R29). -/
def State.setDt (s : State) (b : Byte) : State := { s with dt := b }

/-- `ST <- b` (R29). -/
def State.setSt (s : State) (b : Byte) : State := { s with st := b }

/-- `REDRAW <- b` (R33). -/
def State.setRedraw (s : State) (b : Bool) : State := { s with redraw := b }

/-- `MODE <- m` (R34). -/
def State.setMode (s : State) (m : Mode) : State := { s with mode := m }

/-- `WREG <- x` (R34). -/
def State.setWreg (s : State) (x : RegId) : State := { s with wreg := x }

/-- All of the framebuffer at once (R32). -/
def State.setFb (s : State) (f : Framebuffer) : State := { s with fb := f }

/-- All of memory at once (R35). -/
def State.setMem (s : State) (m : Memory) : State := { s with mem := m }

/-- One more random byte has been drawn (R166, DESIGN CHOICE, log entry 2). -/
def State.countDraw (s : State) : State := { s with draws := s.draws + 1 }

/-- `pc <- pc + 2` (R24). -/
def State.advance (s : State) : State := s.setPc (s.pc + 2#16)

/-- `pc <- pc + (c ? 4 : 2)` (R24). -/
def State.skipIf (s : State) (c : Bool) : State := s.setPc (s.pc + if c then 4#16 else 2#16)

/-! ### Taking a fault -/

/-- Taking a fault of a step (R181, R186, R191): the step returns the fault record made of the instruction's word and the
unchanged pc, and nothing else happens; there is no handler, no saved register and no mode change inside the machine, and
so no return from one either (log entry 6). -/
def takeFault (record : Word → Word → Fault) (word : Word) (s : State) : Result := .fault (record word s.pc)

/-! ### The call stack -/

/-- `Push(a)` (R27); `none` is the overflow, SP = 16. -/
def State.push? (s : State) (a : Word) : Option State :=
  if h : s.sp.val < 16 then
    some { s with stack := s.stack.set s.sp.val a, sp := ⟨s.sp.val + 1, Nat.succ_lt_succ h⟩ }
  else none

/-- `Pop()` (R28): the popped address and the state after; `none` is the underflow, SP = 0.  The slot keeps its stale
value (R26). -/
def State.pop? (s : State) : Option (Word × State) :=
  if h : 0 < s.sp.val then
    some (s.stack[s.sp.val - 1]'(by have := s.sp.isLt; omega),
      { s with sp := ⟨s.sp.val - 1, by have := s.sp.isLt; omega⟩ })
  else none

/-! ### Memory -/

/-- The built-in font, FONT: 16 glyphs of 5 bytes (R52, decision D5 of the spec: general knowledge,
PRESUMED, log entry 1). -/
def font : List Byte :=
  [0xF0#8, 0x90#8, 0x90#8, 0x90#8, 0xF0#8,  0x20#8, 0x60#8, 0x20#8, 0x20#8, 0x70#8,
   0xF0#8, 0x10#8, 0xF0#8, 0x80#8, 0xF0#8,  0xF0#8, 0x10#8, 0xF0#8, 0x10#8, 0xF0#8] ++
  [0x90#8, 0x90#8, 0xF0#8, 0x10#8, 0x10#8,  0xF0#8, 0x80#8, 0xF0#8, 0x10#8, 0xF0#8,
   0xF0#8, 0x80#8, 0xF0#8, 0x90#8, 0xF0#8,  0xF0#8, 0x10#8, 0x20#8, 0x40#8, 0x40#8] ++
  [0xF0#8, 0x90#8, 0xF0#8, 0x90#8, 0xF0#8,  0xF0#8, 0x90#8, 0xF0#8, 0x10#8, 0xF0#8,
   0xF0#8, 0x90#8, 0xF0#8, 0x90#8, 0x90#8,  0xE0#8, 0x90#8, 0xE0#8, 0x90#8, 0xE0#8] ++
  [0xF0#8, 0x80#8, 0x80#8, 0x80#8, 0xF0#8,  0xE0#8, 0x90#8, 0x90#8, 0x90#8, 0xE0#8,
   0xF0#8, 0x80#8, 0xF0#8, 0x80#8, 0xF0#8,  0xF0#8, 0x80#8, 0xF0#8, 0x80#8, 0x80#8]

/-- What an unlisted address reads as, the reset contents of memory (R51): the font at 0x000 to 0x04F, and 0x00 at every
other address (decision D3 of the spec, DESIGN CHOICE, log entry 4). -/
def Memory.unlisted (a : Nat) : Byte := font.getD a 0x00#8

/-- The byte at an address. -/
def Memory.read : Memory → Nat → Byte
  | [], a => Memory.unlisted a
  | (a', b) :: rest, a => if a = a' then b else Memory.read rest a

/-- List an address with a byte, keeping the addresses rising. -/
def Memory.insertEntry : Memory → Nat → Byte → Memory
  | [], a, b => [(a, b)]
  | (a', b') :: rest, a, b =>
    if a < a' then (a, b) :: (a', b') :: rest
    else if a = a' then (a, b) :: rest
    else (a', b') :: Memory.insertEntry rest a b

/-- Write one byte: the value an unlisted address reads as removes the entry, any other value lists it. -/
def Memory.write (m : Memory) (a : Nat) (b : Byte) : Memory :=
  if b = Memory.unlisted a then m.filter (fun c => c.1 != a) else Memory.insertEntry m a b

/-- The canonical form from an address up: addresses rising from `lo`, all of them inside memory, and no entry equal to
what an unlisted address reads as. -/
def Memory.wfFrom : Nat → Memory → Bool
  | _, [] => true
  | lo, (a, b) :: rest =>
    decide (lo ≤ a) && decide (a < Config.memSize) && (b != Memory.unlisted a) && Memory.wfFrom (a + 1) rest

/-- The canonical form of memory. -/
def Memory.wf (m : Memory) : Bool := Memory.wfFrom 0 m

/-- The n bytes from an address up, unchecked. -/
def Memory.readFrom (m : Memory) (a : Nat) : Nat → List Byte
  | 0 => []
  | n + 1 => m.read a :: Memory.readFrom m (a + 1) n

/-- Write bytes at ascending addresses, unchecked (R57). -/
def Memory.writeFrom (m : Memory) (a : Nat) : List Byte → Memory
  | [] => m
  | b :: bs => Memory.writeFrom (m.write a b) (a + 1) bs

/-- The bounds check of R54, R55 and R59 for n bytes from an address up: the highest address, formed without wrap-around,
is at most 0xFFF.  An instruction that accesses no byte has nothing to check (R154). -/
def inBounds (a n : Nat) : Bool := decide (n = 0 ∨ a + n ≤ Config.memSize)

/-- A data read of n bytes, all addresses checked first (R54, R59); `none` is the address fault. -/
def Memory.readBytes? (m : Memory) (a n : Nat) : Option (List Byte) :=
  if inBounds a n then some (m.readFrom a n) else none

/-- A data write of bytes, all addresses checked before anything is written (R54, R59); `none` is the address fault. -/
def Memory.writeBytes? (m : Memory) (a : Nat) (bs : List Byte) : Option Memory :=
  if inBounds a bs.length then some (m.writeFrom a bs) else none

/-- `MemRead(addr, 2)`: the big-endian word at an address (R54, R56); `none` is the address fault. -/
def Memory.readWord? (m : Memory) (a : Nat) : Option Word :=
  if inBounds a 2 then some (wordOfBytes (m.read a) (m.read (a + 1))) else none

/-! ### The framebuffer -/

/-- A cell's place: column, then row. -/
abbrev Pixel := Fin 64 × Fin 32

/-- The cell `FB[y][x]` of the pixel (x, y) (R32). -/
def Framebuffer.cell (f : Framebuffer) (p : Pixel) : Bool := f[p.2][p.1]

/-- `FB[y][x] <- FB[y][x] xor 1` (R151). -/
def Framebuffer.toggle (f : Framebuffer) (p : Pixel) : Framebuffer :=
  f.set p.2 (f[p.2].set p.1 (!f[p.2][p.1]))

/-- All 2048 cells 0 (R150). -/
def Framebuffer.clear : Framebuffer := Vector.replicate 32 (Vector.replicate 64 false)

/-- One sprite pixel drawn: a cell that was on is a collision, and the cell is toggled (R151). -/
def drawPixel (acc : Framebuffer × Bool) (p : Pixel) : Framebuffer × Bool :=
  (acc.1.toggle p, acc.2 || acc.1.cell p)

/-- The bit of a sprite byte that is the pixel of a column, 0 leftmost: bit 7 - c (R152). -/
def spriteBit (b : Byte) (col : Nat) : Bool := b.getLsbD (7 - col)

/-- The cell that the pixel at a sprite row and column falls on, wrapped at both edges (R152). -/
def spritePixel (x0 y0 row col : Nat) : Pixel :=
  (⟨(x0 + col) % 64, Nat.mod_lt _ (by decide)⟩, ⟨(y0 + row) % 32, Nat.mod_lt _ (by decide)⟩)

/-- The cells that one row's 1 bits fall on, leftmost first. -/
def spriteRow (x0 y0 row : Nat) (b : Byte) : List Pixel :=
  ((List.range 8).filter (spriteBit b)).map (spritePixel x0 y0 row)

/-- The cells that a sprite's 1 bits fall on, from a row on, top row first (R151's two loops). -/
def spritePixelsFrom (x0 y0 : Nat) : Nat → List Byte → List Pixel
  | _, [] => []
  | row, b :: bs => spriteRow x0 y0 row b ++ spritePixelsFrom x0 y0 (row + 1) bs

/-- The sprite drawn with its top-left pixel at (x0, y0): the framebuffer after, and whether any cell was turned off
(R151: decided over the whole sprite). -/
def drawSprite (f : Framebuffer) (x0 y0 : Nat) (sprite : List Byte) : Framebuffer × Bool :=
  (spritePixelsFrom x0 y0 0 sprite).foldl drawPixel (f, false)

/-! ### The keypad latch -/

/-- `IsDown(k)` for an 8-bit k (R31): an identifier above 0xF names no key and is not down
(decision D13 of the spec, log entry 10). -/
def State.isDown (s : State) (k : Byte) : Bool := if h : k.toNat < 16 then s.keys[k.toNat] else false

/-- `KEY[k] <- down` for one of the 16 keys (R30). -/
def State.setKey (s : State) (k : Fin 16) (down : Bool) : State := { s with keys := s.keys.set k down }

/-- The least identifier of a key that is down (R163). -/
def State.lowestKey? (s : State) : Option Nat := (List.range 16).find? fun k => s.isDown (BitVec.ofNat 8 k)

end Sys2Proof.Machine
end

