-- ==== Sys2Proof/Machine/Operands.lean ====
section
/-! DEFINITION. The operand forms (R73): a register operand is `State.reg` of its field, an immediate is taken as it
stands and zero-extended, and a memory operand is I plus an offset, formed without wrap-around (R55). -/

namespace Sys2Proof.Machine

/-- `zext_16(v)` (R73). -/
def zext16 {n : Nat} (v : BitVec n) : Word := v.setWidth 16

/-- The register V0, read implicitly by `BNNN` (R103). -/
def V0 : RegId := 0x0#4

/-- The register VF, the flag register (R21). -/
def VF : RegId := 0xF#4

/-- The address of the first byte a memory instruction accesses: I, as an unbounded number (R55). -/
def State.base (s : State) : Nat := s.i.toNat

/-- The three decimal digits of a byte, hundreds first, one digit a byte (R143). -/
def decimalDigits (v : Byte) : List Byte :=
  [BitVec.ofNat 8 (v.toNat / 100), BitVec.ofNat 8 (v.toNat / 10 % 10), BitVec.ofNat 8 (v.toNat % 10)]

end Sys2Proof.Machine
end

