-- ==== Sys2Proof/Machine/Flags.lean ====
section
/-! DEFINITION. The flag computations (R21, R136) and the order in which a flag-writing instruction writes VF and its
result (R137). -/

namespace Sys2Proof.Machine

/-- A flag value: the number 1 or 0. -/
def flagOf (c : Bool) : Byte := if c then 1#8 else 0#8

/-- Carry out of bit 7: a + b > 255 (R126, R136). -/
def carryFlag (a b : Byte) : Byte := flagOf (decide (a.toNat + b.toNat > 255))

/-- No borrow: minuend ≥ subtrahend (R127, R129, R136). -/
def noBorrowFlag (a b : Byte) : Byte := flagOf (decide (a.toNat ≥ b.toNat))

/-- The bit shifted out at the bottom (R128). -/
def lowBitFlag (a : Byte) : Byte := a &&& 1#8

/-- The bit shifted out at the top, as the number 1 or 0 (R130). -/
def highBitFlag (a : Byte) : Byte := flagOf (a &&& 0x80#8 != 0#8)

/-- The two assignments of a flag-writing instruction, in the order written, the second reading the registers as the
first left them (R137, decision D12 of the spec, DESIGN CHOICE, log entry 5): `VF <- flag`, then `V[x] <- result`. -/
def State.flagThenResult (s : State) (x : RegId) (flag result : State → Byte) : State :=
  let s1 := s.setReg VF (flag s)
  s1.setReg x (result s1)

end Sys2Proof.Machine
end

