-- ==== Sys2Proof/Machine/Display.lean ====
section
/-! DEFINITION. Display instructions: `00E0`, `DXYN` (44_display.md). -/

namespace Sys2Proof.Machine

/-- `00E0` (R150): every cell 0, REDRAW set whether or not a cell changed (decision D16 of the spec, log entry 12). -/
def exec00E0 (s : State) : Result := .next ((s.setFb Framebuffer.clear).setRedraw true).advance

/-- `DXYN` (R151 to R155): the N-row sprite at I drawn by XOR at (V[X], V[Y]) with wrap-around; VF is the collision,
written once and last; REDRAW set.  The coordinates are read, and the addresses checked, before anything is written.  N = 0 draws nothing and
reads nothing (R154, decision D15 of the spec, log entry 12). -/
def execDXYN (x y : RegId) (n : Nibble) (s : State) : Result :=
  match s.mem.readBytes? s.base n.toNat with
  | some sprite =>
    let drawn := drawSprite s.fb (s.reg x).toNat (s.reg y).toNat sprite
    .next (((s.setFb drawn.1).setReg VF (flagOf drawn.2)).setRedraw true).advance
  | none => takeFault (.invalidOpcode .addressOutOfRange) (encode (.opDXYN x y n)) s

end Sys2Proof.Machine
end

