-- ==== Sys2Proof/Machine/Flow.lean ====
section
/-! DEFINITION. Jumps, subroutine call and return: `00EE`, `1NNN`, `2NNN`, `BNNN` (40_flow.md). -/

namespace Sys2Proof.Machine

/-- `00EE` (R100): `pc <- Pop() + 2`; StackUnderflow when SP = 0. -/
def exec00EE (s : State) : Result :=
  match s.pop? with
  | some (a, s') => .next (s'.setPc (a + 2#16))
  | none => takeFault .stackUnderflow (encode .op00EE) s

/-- `1NNN` (R101): `pc <- NNN`. -/
def exec1NNN (nnn : Addr) (s : State) : Result := .next (s.setPc (zext16 nnn))

/-- `2NNN` (R102): `Push(pc)`, the instruction's own address, then `pc <- NNN`; StackOverflow when SP = 16. -/
def exec2NNN (nnn : Addr) (s : State) : Result :=
  match s.push? s.pc with
  | some s' => .next (s'.setPc (zext16 nnn))
  | none => takeFault .stackOverflow (encode (.op2NNN nnn)) s

/-- `BNNN` (R103): `pc <- V0 + NNN`, formed in 16 bits and not masked. -/
def execBNNN (nnn : Addr) (s : State) : Result := .next (s.setPc (zext16 (s.reg V0) + zext16 nnn))

end Sys2Proof.Machine
end

