-- ==== Sys2Proof/Machine/IndexMemory.lean ====
section
/-! DEFINITION. Index register and memory instructions: `ANNN`, `FX1E`, `FX29`, `FX33`, `FX55`, `FX65`
(43_index_memory.md).  I is never modified by a memory access. -/

namespace Sys2Proof.Machine

/-- `ANNN` (R140): `I <- NNN`. -/
def execANNN (nnn : Addr) (s : State) : Result := .next (s.setI (zext16 nnn)).advance

/-- `FX1E` (R141): `I <- (I + V[X]) mod 65536`, no flag and no fault (decisions D7 and D8 of the spec, log entry 9). -/
def execFX1E (x : RegId) (s : State) : Result := .next (s.setI (s.i + zext16 (s.reg x))).advance

/-- `FX29` (R142): `I <- font_base + 5 * V[X]`, the whole byte, not masked (decision D14 of the spec, log
entry 11). -/
def execFX29 (x : RegId) (s : State) : Result :=
  .next (s.setI (Config.fontBase + 5#16 * zext16 (s.reg x))).advance

/-- The store shared by `FX33` and `FX55`: bytes to I, I+1, …, all addresses checked first (R59), then pc + 2. -/
def storeAtI (bs : List Byte) (word : Word) (s : State) : Result :=
  match s.mem.writeBytes? s.base bs with
  | some m => .next (s.setMem m).advance
  | none => takeFault (.invalidOpcode .addressOutOfRange) word s

/-- `FX33` (R143): the decimal digits of V[X] to I, I+1, I+2. -/
def execFX33 (x : RegId) (s : State) : Result := storeAtI (decimalDigits (s.reg x)) (encode (.opFX33 x)) s

/-- `FX55` (R144): V0 to VX to I, I+1, …, I+X. -/
def execFX55 (x : RegId) (s : State) : Result := storeAtI (s.regsUpTo x) (encode (.opFX55 x)) s

/-- `FX65` (R145): I, I+1, …, I+X to V0 to VX, all addresses checked first (R59). -/
def execFX65 (x : RegId) (s : State) : Result :=
  match s.mem.readBytes? s.base (x.toNat + 1) with
  | some bs => .next (s.setRegs bs).advance
  | none => takeFault (.invalidOpcode .addressOutOfRange) (encode (.opFX65 x)) s

end Sys2Proof.Machine
end

