-- ==== Sys2Proof/Machine/KeypadTimerRandom.lean ====
section
/-! DEFINITION. Keypad, timer and random instructions: `EX9E`, `EXA1`, `FX0A`, `FX07`, `FX15`, `FX18`, `CXNN`, and the
`AwaitingKey` poll, the second half of `FX0A` (45_keypad_timer_random.md). -/

namespace Sys2Proof.Machine

/-- `EX9E` (R160): skip if the key named by V[X] is down. -/
def execEX9E (x : RegId) (s : State) : Result := .next (s.skipIf (s.isDown (s.reg x)))

/-- `EXA1` (R161): skip if the key named by V[X] is not down. -/
def execEXA1 (x : RegId) (s : State) : Result := .next (s.skipIf (!s.isDown (s.reg x)))

/-- `FX0A`, first half (R162): enter `AwaitingKey`; pc keeps the address of this instruction and the keypad is not
looked at. -/
def execFX0A (x : RegId) (s : State) : Result := .next ((s.setMode .awaitingKey).setWreg x)

/-- `FX0A`, second half (R163), what a step does while MODE is `AwaitingKey`: the least key that is down goes to V[WREG],
pc moves past the `FX0A` and the engine runs again; with no key down nothing changes. -/
def awaitingKeyPoll (s : State) : Result :=
  match s.lowestKey? with
  | some k => .next ((s.setReg s.wreg (BitVec.ofNat 8 k)).advance.setMode .running)
  | none => .next s

/-- `FX07` (R164): `V[X] <- DT`. -/
def execFX07 (x : RegId) (s : State) : Result := .next (s.setReg x s.dt).advance

/-- `FX15` (R165): `DT <- V[X]`. -/
def execFX15 (x : RegId) (s : State) : Result := .next (s.setDt (s.reg x)).advance

/-- `FX18` (R167): `ST <- V[X]`. -/
def execFX18 (x : RegId) (s : State) : Result := .next (s.setSt (s.reg x)).advance

/-- `CXNN` (R166): `V[X] <- rnd & NN`, where rnd is the next free byte of the random source (DESIGN CHOICE,
log entry 2). -/
def execCXNN (x : RegId) (nn : Byte) (s : State) : Result :=
  .next (s.setReg x (Config.randomByte s.draws &&& nn)).countDraw.advance

end Sys2Proof.Machine
end

