-- ==== Sys2Proof/Machine/LoadAlu.lean ====
section
/-! DEFINITION. Load immediate, add immediate and the register ALU: `6XNN`, `7XNN`, `8XY0` to `8XY7`, `8XYE`
(42_load_alu.md).  All arithmetic is on unsigned bytes modulo 256 (R136). -/

namespace Sys2Proof.Machine

/-- `6XNN` (R120): `V[X] <- NN`. -/
def exec6XNN (x : RegId) (nn : Byte) (s : State) : Result := .next (s.setReg x nn).advance

/-- `7XNN` (R121): `V[X] <- (V[X] + NN) mod 256`, no flag. -/
def exec7XNN (x : RegId) (nn : Byte) (s : State) : Result := .next (s.setReg x (s.reg x + nn)).advance

/-- `8XY0` (R122): `V[X] <- V[Y]`. -/
def exec8XY0 (x y : RegId) (s : State) : Result := .next (s.setReg x (s.reg y)).advance

/-- `8XY1` (R123): `V[X] <- V[X] | V[Y]`, no flag. -/
def exec8XY1 (x y : RegId) (s : State) : Result := .next (s.setReg x (s.reg x ||| s.reg y)).advance

/-- `8XY2` (R124): `V[X] <- V[X] & V[Y]`, no flag. -/
def exec8XY2 (x y : RegId) (s : State) : Result := .next (s.setReg x (s.reg x &&& s.reg y)).advance

/-- `8XY3` (R125): `V[X] <- V[X] xor V[Y]`, no flag. -/
def exec8XY3 (x y : RegId) (s : State) : Result := .next (s.setReg x (s.reg x ^^^ s.reg y)).advance

/-- `8XY4` (R126): `VF <- carry`; `V[X] <- (V[X] + V[Y]) mod 256`. -/
def exec8XY4 (x y : RegId) (s : State) : Result :=
  .next (s.flagThenResult x (fun u => carryFlag (u.reg x) (u.reg y)) (fun u => u.reg x + u.reg y)).advance

/-- `8XY5` (R127): `VF <- no borrow`; `V[X] <- (V[X] - V[Y]) mod 256`. -/
def exec8XY5 (x y : RegId) (s : State) : Result :=
  .next (s.flagThenResult x (fun u => noBorrowFlag (u.reg x) (u.reg y)) (fun u => u.reg x - u.reg y)).advance

/-- `8XY6` (R128): `VF <- V[X] & 1`; `V[X] <- V[X] >> 1`, V[Y] unused (R77). -/
def exec8XY6 (x _y : RegId) (s : State) : Result :=
  .next (s.flagThenResult x (fun u => lowBitFlag (u.reg x)) (fun u => u.reg x >>> 1)).advance

/-- `8XY7` (R129): `VF <- no borrow`; `V[X] <- (V[Y] - V[X]) mod 256`. -/
def exec8XY7 (x y : RegId) (s : State) : Result :=
  .next (s.flagThenResult x (fun u => noBorrowFlag (u.reg y) (u.reg x)) (fun u => u.reg y - u.reg x)).advance

/-- `8XYE` (R130): `VF <- bit 7 of V[X]`; `V[X] <- (V[X] << 1) mod 256`, V[Y] unused (R77). -/
def exec8XYE (x _y : RegId) (s : State) : Result :=
  .next (s.flagThenResult x (fun u => highBitFlag (u.reg x)) (fun u => u.reg x <<< 1)).advance

end Sys2Proof.Machine
end

