-- ==== Sys2Proof/Machine/Skip.lean ====
section
/-! DEFINITION. Conditional skips on register values: `3XNN`, `4XNN`, `5XY0`, `9XY0` (41_skip.md). -/

namespace Sys2Proof.Machine

/-- `3XNN` (R110): skip if `V[X] == NN`. -/
def exec3XNN (x : RegId) (nn : Byte) (s : State) : Result := .next (s.skipIf (s.reg x == nn))

/-- `4XNN` (R111): skip if `V[X] != NN`. -/
def exec4XNN (x : RegId) (nn : Byte) (s : State) : Result := .next (s.skipIf (s.reg x != nn))

/-- `5XY0` (R112): skip if `V[X] == V[Y]`. -/
def exec5XY0 (x y : RegId) (s : State) : Result := .next (s.skipIf (s.reg x == s.reg y))

/-- `9XY0` (R113): skip if `V[X] != V[Y]`. -/
def exec9XY0 (x y : RegId) (s : State) : Result := .next (s.skipIf (s.reg x != s.reg y))

end Sys2Proof.Machine
end

