-- ==== Sys2Proof/Machine/Fetch.lean ====
section
/-! DEFINITION. Instruction fetch and decode with their faults (R41, R56, R188), and the placing of a word where the next
step fetches. -/

namespace Sys2Proof.Machine

/-- What the fetch and decode stages of a step give: the instruction, or the fault of the stage that failed. -/
inductive Fetched where
  | insn (i : Instr)
  | failed (f : Fault)
  deriving DecidableEq, Repr

/-- The word at pc, the two bytes big-endian (R56); `none` when pc > 0xFFE. -/
def State.fetchWord? (s : State) : Option Word := s.mem.readWord? s.pc.toNat

/-- Fetch, then decode (R41).  The fetch check comes first and its record carries the word 0x0000; a word that matches no
row faults next (R181, R182, R188, decisions D10 and D11 of the spec, log entry 6). -/
def State.fetch (s : State) : Fetched :=
  match s.fetchWord? with
  | none => .failed (.invalidOpcode .addressOutOfRange 0x0000#16 s.pc)
  | some w =>
    match decodeWord w with
    | some i => .insn i
    | none => .failed (.invalidOpcode .noDecodeRule w s.pc)

/-- A state whose next step fetches the given word: the word's two bytes at pc, the engine running, and pc moved to the
entry point if no fetch is possible where it stands (DESIGN CHOICE, log entry 7). -/
def State.placeWord (s : State) (w : Word) : State :=
  let pc := if s.pc.toNat ≤ 0xFFE then s.pc else Config.resetPc
  ((s.setPc pc).setMem (s.mem.writeFrom pc.toNat (bytesOfWord w))).setMode .running

end Sys2Proof.Machine
end

