-- ==== Sys2Proof/Machine/Step.lean ====
section
/-! DEFINITION. One step (R41), and the host's placing of a table word where the next step fetches it. -/

namespace Sys2Proof.Machine

/-- `step` (R41): the keypad poll while `AwaitingKey`, which fetches and decodes nothing; else fetch, decode and execute
one instruction. -/
def step (s : State) : Host.Outcome State Fault Refusal :=
  match s.mode with
  | .awaitingKey => awaitingKeyPoll s
  | .running =>
    match s.fetch with
    | .insn i => exec i s
    | .failed f => .fault f

/-- The state whose next step fetches and runs the table's word. -/
def State.withFetchWord (s : State) (nbits w : Nat) : State := s.placeWord (tableWord nbits w)

end Sys2Proof.Machine
end

