-- ==== Sys2Proof/Machine/Events.lean ====
section
/-! DEFINITION. The events by which the environment drives the core (R40 to R44): reset, load_program, tick, key_press,
key_release, take_redraw, and step as one of them; and what the environment may observe between events (R43). -/

namespace Sys2Proof.Machine

/-- `tick()` (R195, R196): each timer down by one, and a timer at 0 stays at 0; MODE is not looked at (decision D17 of the
spec, log entry 13). -/
def tick (s : State) : State :=
  let s1 := if s.dt = 0#8 then s else s.setDt (s.dt - 1#8)
  if s1.st = 0#8 then s1 else s1.setSt (s1.st - 1#8)

/-- `KEY[id] <- down` after the identifier's check, shared by press and release (R197, R198). -/
def setKeyChecked (id : Byte) (down : Bool) (s : State) : Result :=
  if h : id.toNat < 16 then .next (s.setKey ⟨id.toNat, h⟩ down) else .fault (.invalidKey id)

/-- `key_press(id)` (R197). -/
def keyPress (id : Byte) (s : State) : Result := setKeyChecked id true s

/-- `key_release(id)` (R198). -/
def keyRelease (id : Byte) (s : State) : Result := setKeyChecked id false s

/-- `load_program(bytes)` (R212): the image copied from 0x200 up, or ProgramTooLarge and nothing copied. -/
def loadProgram (bytes : List Byte) (s : State) : Result :=
  if imageWellFormed bytes then .next (s.setMem (s.mem.writeFrom Config.progBase bytes))
  else .fault (.programTooLarge bytes.length)

/-- `take_redraw()` (R44): the old value of REDRAW, and the state with REDRAW cleared. -/
def takeRedraw (s : State) : Bool × State := (s.redraw, s.setRedraw false)

/-- `reset` (R210): every piece of state at its reset value.  The random source is outside the core and is not rewound:
the model's counter of draws goes on (DESIGN CHOICE, log entry 2). -/
def resetCore (s : State) : State := { State.reset with draws := s.draws }

/-- The seven events of R40 (log entry 16).  The random input of `step` is the free value of log entry 2. -/
inductive Event where
  | reset
  | loadProgram (bytes : List Byte)
  | step
  | tick
  | keyPress (id : Byte)
  | keyRelease (id : Byte)
  | takeRedraw
  deriving DecidableEq, Repr

/-- The result an event returns to the environment (R40, R42). -/
inductive Response where
  /-- No result, or `Ok`. -/
  | ok
  /-- `Ok(redraw_pending)` of a step (R42). -/
  | stepped (redrawPending : Bool)
  /-- The old value of REDRAW (R44). -/
  | redraw (old : Bool)
  /-- The fault of the event (R180). -/
  | raised (f : Fault)
  /-- An event order outside the spec's model. -/
  | refused (r : Refusal)
  deriving DecidableEq, Repr

/-- The core and, beside it, whether the environment may still load a program: since the last reset no step has been
issued (R213, decision D20 of the spec; the field is the model's, DESIGN CHOICE, log entry 8). -/
structure Session where
  core       : State
  loadWindow : Bool
  deriving DecidableEq, Repr

/-- A session right after construction. -/
def Session.start : Session := ⟨State.reset, true⟩

/-- The session after an event whose outcome on the core is given: a fault or a refusal leaves the core as it was
(R186). -/
def Session.after (e : Session) (window : Bool) (done : State → Response) : Result → Session × Response
  | .next s => (⟨s, window⟩, done s)
  | .fault f => (⟨e.core, window⟩, .raised f)
  | .refused r => (⟨e.core, window⟩, .refused r)

/-- One event (R40). -/
def applyEvent (ev : Event) (e : Session) : Session × Response :=
  match ev with
  | .reset => (⟨resetCore e.core, true⟩, .ok)
  | .loadProgram bytes =>
    if e.loadWindow then e.after true (fun _ => .ok) (loadProgram bytes e.core)
    else (e, .refused .loadAfterFirstStep)
  | .step => e.after false (fun s => .stepped s.redraw) (step e.core)
  | .tick => (⟨tick e.core, e.loadWindow⟩, .ok)
  | .keyPress id => e.after e.loadWindow (fun _ => .ok) (keyPress id e.core)
  | .keyRelease id => e.after e.loadWindow (fun _ => .ok) (keyRelease id e.core)
  | .takeRedraw => (⟨(takeRedraw e.core).2, e.loadWindow⟩, .redraw (takeRedraw e.core).1)

/-- A sequence of events; the environment chooses the order (R40). -/
def applyEvents : List Event → Session → Session
  | [], e => e
  | ev :: evs, e => applyEvents evs (applyEvent ev e).1

/-! ### The numeric labels of the fault kinds (R180) -/

/-- The code of a fault kind, 1 to 5 (R180, decision D10 of the spec: a label nothing depends on, log entry 6). -/
def faultCode : Fault → Nat
  | .invalidOpcode _ _ _ => 1
  | .stackOverflow _ _ => 2
  | .stackUnderflow _ _ => 3
  | .invalidKey _ => 4
  | .programTooLarge _ => 5

/-- The code of the reason of an `InvalidOpcode` (R180, decision D10 of the spec, log entry 6). -/
def reasonCode : InvalidReason → Nat
  | .noDecodeRule => 0
  | .addressOutOfRange => 1

/-! ### What the environment may observe (R43) -/

/-- The framebuffer snapshot, row-major: cell (x, y) is element y * 64 + x of 2048 (R32). -/
def snapshot (s : State) : List Bool := (s.fb.toList.map Vector.toList).flatten

/-- The diagnostic opcode accessor: the instruction word at pc, when pc ≤ 0xFFE (R43). -/
def opcodeAtPc (s : State) : Option Word := s.fetchWord?

end Sys2Proof.Machine
end

