-- ==== Sys2Proof/Safety.lean ====
section
/-! DEFINITION. The terms in which claims speak of a run: the invariant of the machine, the parts of the state an
instruction may write, and when a run faults or has ended. -/

namespace Sys2Proof.Machine

/-! ### The invariant -/

/-- What holds of every state a run reaches: memory is in canonical form; pc is at most 0x10FE, and at most 0xFFE while
the engine waits at an `FX0A` (R25); and every live call-stack slot holds an address at which a fetch succeeded (R25,
R100). -/
structure State.Inv (s : State) : Prop where
  memWf   : s.mem.wf = true
  pcBound : s.pc.toNat ≤ 0x10FE
  waitPc  : s.mode = .awaitingKey → s.pc.toNat ≤ 0xFFE
  slots   : ∀ k : Fin 16, k.val < s.sp.val → s.stack[k].toNat ≤ 0xFFE

/-! ### Frames -/

/-- The parts of the state, as a frame names them. -/
inductive Part where
  | regs | index | pc | stack | delay | sound | keys | framebuffer | redraw | engine | memory | draws
  deriving DecidableEq, Repr

/-- Two states agree on a part.  Memory agrees when every address reads the same. -/
def Part.same (p : Part) (s t : State) : Prop :=
  match p with
  | .regs => ∀ r, t.reg r = s.reg r
  | .index => t.i = s.i
  | .pc => t.pc = s.pc
  | .stack => t.sp = s.sp ∧ ∀ k : Fin 16, t.stack[k] = s.stack[k]
  | .delay => t.dt = s.dt
  | .sound => t.st = s.st
  | .keys => ∀ k : Fin 16, t.keys[k] = s.keys[k]
  | .framebuffer => ∀ p : Pixel, t.fb.cell p = s.fb.cell p
  | .redraw => t.redraw = s.redraw
  | .engine => t.mode = s.mode ∧ t.wreg = s.wreg
  | .memory => ∀ a, t.mem.read a = s.mem.read a
  | .draws => t.draws = s.draws

/-- Two states agree on every part but those listed. -/
def SameExcept (parts : List Part) (s t : State) : Prop := ∀ p, p ∉ parts → p.same s t

/-- Two states agree on every general register but those listed. -/
def RegsSameExcept (regs : List RegId) (s t : State) : Prop := ∀ r, r ∉ regs → t.reg r = s.reg r

/-- An instruction's usual end: pc is past it, only the named parts and registers may differ (pc apart), and no more. -/
def Advanced (parts : List Part) (regs : List RegId) (s t : State) : Prop :=
  t.pc = s.pc + 2#16 ∧ SameExcept (.pc :: .regs :: parts) s t ∧ RegsSameExcept regs s t

/-- The registers an instruction may write (R20, R21): its X field where that is a destination, VF for the six that write
a flag, and V0 to VX for `FX65`. -/
def regsWritten : Instr → List RegId
  | .op6XNN x _ | .op7XNN x _ | .opCXNN x _ | .opFX07 x => [x]
  | .op8XY0 x _ | .op8XY1 x _ | .op8XY2 x _ | .op8XY3 x _ => [x]
  | .op8XY4 x _ | .op8XY5 x _ | .op8XY6 x _ | .op8XY7 x _ | .op8XYE x _ => [x, VF]
  | .opDXYN _ _ _ => [VF]
  | .opFX65 x => (List.range (x.toNat + 1)).map (BitVec.ofNat 4)
  | .op00E0 | .op00EE | .op1NNN _ | .op2NNN _ | .op3XNN _ _ | .op4XNN _ _ | .op5XY0 _ _ | .op9XY0 _ _ => []
  | .opANNN _ | .opBNNN _ | .opEX9E _ | .opEXA1 _ | .opFX0A _ | .opFX15 _ | .opFX18 _ | .opFX1E _ => []
  | .opFX29 _ | .opFX33 _ | .opFX55 _ => []

/-- The parts of the state an instruction may write, the registers apart (R22 to R37). -/
def partsWritten : Instr → List Part
  | .op00E0 => [.pc, .framebuffer, .redraw]
  | .opDXYN _ _ _ => [.pc, .framebuffer, .redraw]
  | .op00EE | .op2NNN _ => [.pc, .stack]
  | .op1NNN _ | .opBNNN _ | .op3XNN _ _ | .op4XNN _ _ | .op5XY0 _ _ | .op9XY0 _ _ | .opEX9E _ | .opEXA1 _ => [.pc]
  | .op6XNN _ _ | .op7XNN _ _ | .opFX07 _ => [.pc]
  | .op8XY0 _ _ | .op8XY1 _ _ | .op8XY2 _ _ | .op8XY3 _ _ | .op8XY4 _ _ => [.pc]
  | .op8XY5 _ _ | .op8XY6 _ _ | .op8XY7 _ _ | .op8XYE _ _ => [.pc]
  | .opANNN _ | .opFX1E _ | .opFX29 _ => [.pc, .index]
  | .opCXNN _ _ => [.pc, .draws]
  | .opFX0A _ => [.engine]
  | .opFX15 _ => [.pc, .delay]
  | .opFX18 _ => [.pc, .sound]
  | .opFX33 _ | .opFX55 _ => [.pc, .memory]
  | .opFX65 _ => [.pc]

/-- The new pc of an instruction that completes, the table of R24 row by row.  The address `00EE` pops is the newest live
slot. -/
def pcAfter (i : Instr) (s : State) : Word :=
  match i with
  | .op3XNN x nn => s.pc + if s.reg x = nn then 4#16 else 2#16
  | .op4XNN x nn => s.pc + if s.reg x ≠ nn then 4#16 else 2#16
  | .op5XY0 x y => s.pc + if s.reg x = s.reg y then 4#16 else 2#16
  | .op9XY0 x y => s.pc + if s.reg x ≠ s.reg y then 4#16 else 2#16
  | .opEX9E x => s.pc + if s.isDown (s.reg x) = true then 4#16 else 2#16
  | .opEXA1 x => s.pc + if s.isDown (s.reg x) = false then 4#16 else 2#16
  | .op1NNN nnn => nnn.setWidth 16
  | .op2NNN nnn => nnn.setWidth 16
  | .op00EE => s.stack.toList.getD (s.sp.val - 1) 0#16 + 2#16
  | .opBNNN nnn => (s.reg V0).setWidth 16 + nnn.setWidth 16
  | .opFX0A _ => s.pc
  | .op00E0 | .op6XNN _ _ | .op7XNN _ _ | .op8XY0 _ _ | .op8XY1 _ _ | .op8XY2 _ _ | .op8XY3 _ _ => s.pc + 2#16
  | .op8XY4 _ _ | .op8XY5 _ _ | .op8XY6 _ _ | .op8XY7 _ _ | .op8XYE _ _ => s.pc + 2#16
  | .opANNN _ | .opCXNN _ _ | .opDXYN _ _ _ | .opFX07 _ | .opFX15 _ | .opFX18 _ => s.pc + 2#16
  | .opFX1E _ | .opFX29 _ | .opFX33 _ | .opFX55 _ | .opFX65 _ => s.pc + 2#16

/-! ### The fields of a word as the encoding rules place them -/

/-- `X<<8`. -/
def xAt8 (x : RegId) : Word := x.setWidth 16 <<< 8

/-- `Y<<4`. -/
def yAt4 (y : RegId) : Word := y.setWidth 16 <<< 4

/-- A field of a word: its bits are the bits of the word from bit `lo` up (R71). -/
def FieldAt (w : Word) (lo : Nat) {n : Nat} (v : BitVec n) : Prop := ∀ b < n, v.getLsbD b = w.getLsbD (lo + b)

/-- The operands of an instruction are the fields of the word that its format gives it: X = bits 8 to 11, Y = bits 4 to 7,
N = bits 0 to 3, NN = bits 0 to 7, NNN = bits 0 to 11 (R71, R72). -/
def OperandsAreFields (w : Word) : Instr → Prop
  | .op00E0 | .op00EE => True
  | .op1NNN nnn | .op2NNN nnn | .opANNN nnn | .opBNNN nnn => FieldAt w 0 nnn
  | .op3XNN x nn | .op4XNN x nn | .op6XNN x nn | .op7XNN x nn | .opCXNN x nn => FieldAt w 8 x ∧ FieldAt w 0 nn
  | .op5XY0 x y | .op9XY0 x y => FieldAt w 8 x ∧ FieldAt w 4 y
  | .op8XY0 x y | .op8XY1 x y | .op8XY2 x y | .op8XY3 x y | .op8XY4 x y => FieldAt w 8 x ∧ FieldAt w 4 y
  | .op8XY5 x y | .op8XY6 x y | .op8XY7 x y | .op8XYE x y => FieldAt w 8 x ∧ FieldAt w 4 y
  | .opDXYN x y n => FieldAt w 8 x ∧ FieldAt w 4 y ∧ FieldAt w 0 n
  | .opEX9E x | .opEXA1 x | .opFX07 x | .opFX0A x | .opFX15 x | .opFX18 x | .opFX1E x => FieldAt w 8 x
  | .opFX29 x | .opFX33 x | .opFX55 x | .opFX65 x => FieldAt w 8 x

/-! ### Reset as the spec states it -/

/-- The table of R52, row by row: where a glyph stands and its five bytes (PRESUMED, log entry 1). -/
def glyphTable : List (Nat × List Byte) :=
  [(0x000, [0xF0#8, 0x90#8, 0x90#8, 0x90#8, 0xF0#8]), (0x005, [0x20#8, 0x60#8, 0x20#8, 0x20#8, 0x70#8]),
   (0x00A, [0xF0#8, 0x10#8, 0xF0#8, 0x80#8, 0xF0#8]), (0x00F, [0xF0#8, 0x10#8, 0xF0#8, 0x10#8, 0xF0#8]),
   (0x014, [0x90#8, 0x90#8, 0xF0#8, 0x10#8, 0x10#8]), (0x019, [0xF0#8, 0x80#8, 0xF0#8, 0x10#8, 0xF0#8]),
   (0x01E, [0xF0#8, 0x80#8, 0xF0#8, 0x90#8, 0xF0#8]), (0x023, [0xF0#8, 0x10#8, 0x20#8, 0x40#8, 0x40#8])] ++
  [(0x028, [0xF0#8, 0x90#8, 0xF0#8, 0x90#8, 0xF0#8]), (0x02D, [0xF0#8, 0x90#8, 0xF0#8, 0x10#8, 0xF0#8]),
   (0x032, [0xF0#8, 0x90#8, 0xF0#8, 0x90#8, 0x90#8]), (0x037, [0xE0#8, 0x90#8, 0xE0#8, 0x90#8, 0xE0#8]),
   (0x03C, [0xF0#8, 0x80#8, 0x80#8, 0x80#8, 0xF0#8]), (0x041, [0xE0#8, 0x90#8, 0x90#8, 0x90#8, 0xE0#8]),
   (0x046, [0xF0#8, 0x80#8, 0xF0#8, 0x80#8, 0xF0#8]), (0x04B, [0xF0#8, 0x80#8, 0xF0#8, 0x80#8, 0x80#8])]

/-- Every piece of state the spec gives the core is at its value in the table of R38: pc is the document's; the zeros and
`running` are decision D2 of the spec (log entry 3), the zeros of memory decision D3 (log entry 4), the glyphs log entry 1.
The model's own counter of draws is not among them. -/
def HasResetValues (t : State) : Prop :=
  t.pc = 0x0200#16 ∧ t.mode = .running ∧ (∀ r, t.reg r = 0#8) ∧ t.i = 0#16 ∧ t.sp = 0 ∧
  (∀ k : Fin 16, t.stack[k] = 0#16) ∧ t.dt = 0#8 ∧ t.st = 0#8 ∧ (∀ k : Fin 16, t.keys[k] = false) ∧
  (∀ p : Pixel, t.fb.cell p = false) ∧ t.redraw = false ∧ t.wreg = 0#4 ∧
  (∀ a, 0x50 ≤ a → t.mem.read a = 0x00#8) ∧ (∀ g ∈ glyphTable, t.mem.readFrom g.1 5 = g.2)

/-! ### Sprites as the spec states them -/

/-- A sprite drawn with its top-left pixel at (x0, y0) has a 1 bit on the cell at column px, row py (R152, R153). -/
def Covers (sprite : List Byte) (x0 y0 px py : Nat) : Prop :=
  ∃ r c b, sprite[r]? = some b ∧ c < 8 ∧ b.getLsbD (7 - c) = true ∧ (x0 + c) % 64 = px ∧ (y0 + r) % 32 = py

/-! ### Faults and ends of runs -/

/-- The condition under which an instruction faults when executed (R189). -/
def Traps (i : Instr) (s : State) : Prop :=
  match i with
  | .op2NNN _ => s.sp.val = 16
  | .op00EE => s.sp.val = 0
  | .opDXYN _ _ n => 1 ≤ n.toNat ∧ s.i.toNat + n.toNat - 1 > 0xFFF
  | .opFX33 _ => s.i.toNat + 2 > 0xFFF
  | .opFX55 x => s.i.toNat + x.toNat > 0xFFF
  | .opFX65 x => s.i.toNat + x.toNat > 0xFFF
  | .op00E0 | .op1NNN _ | .op3XNN _ _ | .op4XNN _ _ | .op5XY0 _ _ | .op6XNN _ _ | .op7XNN _ _ => False
  | .op8XY0 _ _ | .op8XY1 _ _ | .op8XY2 _ _ | .op8XY3 _ _ | .op8XY4 _ _ | .op8XY5 _ _ => False
  | .op8XY6 _ _ | .op8XY7 _ _ | .op8XYE _ _ | .op9XY0 _ _ | .opANNN _ | .opBNNN _ | .opCXNN _ _ => False
  | .opEX9E _ | .opEXA1 _ | .opFX07 _ | .opFX0A _ | .opFX15 _ | .opFX18 _ | .opFX1E _ | .opFX29 _ => False

/-- Instructions executed one after another, stopping at the first that does not complete. -/
def execAll : List Instr → State → Result
  | [], s => .next s
  | i :: is, s =>
    match exec i s with
    | .next t => execAll is t
    | .fault f => .fault f
    | .refused r => .refused r

/-- The next step gives a next state: no fault and no refusal. -/
def StepCompletes (s : State) : Prop := ∃ t, step s = .next t

/-- The end of a program as R216 offers it (general knowledge, U3): the engine runs and pc addresses a jump to itself. -/
def Ended (s : State) : Prop := s.mode = .running ∧ ∃ nnn, s.fetch = .insn (.op1NNN nnn) ∧ s.pc = zext16 nnn

end Sys2Proof.Machine
end

