-- ==== Sys2Proof/Certificates/Slice0/Obligations.lean ====
section
/-! DEFINITION. The statements for the provers, from the numbered rules of spec/.  `Advanced parts regs s t` says that t
has pc two past that of s and that nothing but pc, the named parts and the named registers may differ; memory is compared
by the read of every address. -/

open Sys2Proof Sys2Proof.Machine

/-! ### Encoding and decoding -/

/-- The decoder reads back every operand of every instruction: decoding the encoded word gives the instruction
(30_encoding.md sections 1 and 2). -/
def Obligations.DecodeOfEncodeGivesInstruction : Prop :=
  ∀ i : Instr, i.wellFormed = true → decodeWord (encode i) = some i

/-- A word that decodes is the encoded word of what it decodes to: each legal word has one meaning and no bit of it is
dropped (30_encoding.md section 2). -/
def Obligations.EncodeOfDecodeGivesWord : Prop :=
  ∀ (w : Word) (i : Instr), decodeWord w = some i → encode i = w

/-- R74: decoding returns the one row whose masked pattern the word matches; the patterns are pairwise disjoint; a word
that matches no row makes the step raise InvalidOpcode(NoDecodeRule) with that word and pc. -/
def Obligations.DecodeFindsTheOneMatchingRow : Prop :=
  (∀ (w : Word) (r : Row), r ∈ opcodeTable →
    (w &&& r.mask = r.pattern ↔ ∃ i, decodeWord w = some i ∧ i.row = r)) ∧
  (∀ (w : Word) (r r' : Row), r ∈ opcodeTable → r' ∈ opcodeTable →
    w &&& r.mask = r.pattern → w &&& r'.mask = r'.pattern → r = r') ∧
  (∀ (w : Word) (s : State), (∀ r, r ∈ opcodeTable → w &&& r.mask ≠ r.pattern) →
    s.mode = .running → s.pc.toNat ≤ 0xFFE → s.mem.read s.pc.toNat ++ s.mem.read (s.pc.toNat + 1) = w →
    step s = .fault (.invalidOpcode .noDecodeRule w s.pc))

/-- The illegal words are exactly the six classes of the table of R76. -/
def Obligations.IllegalWordsAreTheSixClasses : Prop :=
  ∀ w : Word, decodeWord w = none ↔
    (opField w = 0x0#4 ∧ w ≠ 0x00E0#16 ∧ w ≠ 0x00EE#16) ∨
    (opField w = 0x5#4 ∧ nField w ≠ 0x0#4) ∨
    (opField w = 0x8#4 ∧ nField w ∈ [0x8#4, 0x9#4, 0xA#4, 0xB#4, 0xC#4, 0xD#4, 0xF#4]) ∨
    (opField w = 0x9#4 ∧ nField w ≠ 0x0#4) ∨
    (opField w = 0xE#4 ∧ nnField w ∉ [0x9E#8, 0xA1#8]) ∨
    (opField w = 0xF#4 ∧ nnField w ∉ [0x07#8, 0x0A#8, 0x15#8, 0x18#8, 0x1E#8, 0x29#8, 0x33#8, 0x55#8, 0x65#8])

/-- A few words written out from the encodings decode to the instructions they stand for, and a few illegal ones to
none (95_test_vectors.md section 3.7). -/
def Obligations.HandWrittenWordsDecode : Prop :=
  decodeWord 0x00E0#16 = some .op00E0 ∧ decodeWord 0x10E0#16 = some (.op1NNN 0x0E0#12) ∧
  decodeWord 0x5AB0#16 = some (.op5XY0 0xA#4 0xB#4) ∧ decodeWord 0x8AB4#16 = some (.op8XY4 0xA#4 0xB#4) ∧
  decodeWord 0xD5A7#16 = some (.opDXYN 0x5#4 0xA#4 0x7#4) ∧ decodeWord 0xE1A1#16 = some (.opEXA1 0x1#4) ∧
  decodeWord 0xF155#16 = some (.opFX55 0x1#4) ∧ decodeWord 0x0000#16 = none ∧ decodeWord 0x5AB1#16 = none ∧
  decodeWord 0xF175#16 = none

/-! ### The step -/

/-- While the engine runs and the two bytes at pc decode to an instruction, a step is the execution of that instruction
at that state, with nothing added around it: pc still addresses the instruction (R41, R56). -/
def Obligations.StepRunsTheDecodedInstruction : Prop :=
  ∀ (s : State) (i : Instr), s.mode = .running → s.pc.toNat ≤ 0xFFE → i.wellFormed = true →
    decodeWord (s.mem.read s.pc.toNat ++ s.mem.read (s.pc.toNat + 1)) = some i → step s = exec i s

/-- The faults of fetch and decode, in their order: pc above 0xFFE faults first, with the word 0x0000; a word that matches
no row faults next.  The record's word 0x0000 and its reason are the spec's decision D10, the order decision D11
(log entry 6). -/
def Obligations.FetchFaultsThenDecodeFaults : Prop :=
  ∀ s : State, s.mode = .running →
    (s.pc.toNat > 0xFFE → step s = .fault (.invalidOpcode .addressOutOfRange 0x0000#16 s.pc)) ∧
    (s.pc.toNat ≤ 0xFFE → decodeWord (s.mem.read s.pc.toNat ++ s.mem.read (s.pc.toNat + 1)) = none →
      step s = .fault (.invalidOpcode .noDecodeRule (s.mem.read s.pc.toNat ++ s.mem.read (s.pc.toNat + 1)) s.pc))

/-- Every fault a step returns has the record of R181 in the running engine: the fetched word (0x0000 when the fetch itself
is out of range) and the unchanged pc.  The word and pc on stack faults and the word 0x0000 are decision D10 of the
spec (log entry 6). -/
def Obligations.StepFaultRecords : Prop :=
  ∀ (s : State) (f : Fault), step s = .fault f → s.mode = .running ∧
    ((s.pc.toNat > 0xFFE ∧ f = .invalidOpcode .addressOutOfRange 0x0000#16 s.pc) ∨
     (s.pc.toNat ≤ 0xFFE ∧ ∃ w : Word, w = s.mem.read s.pc.toNat ++ s.mem.read (s.pc.toNat + 1) ∧
        (f = .invalidOpcode .noDecodeRule w s.pc ∨ f = .invalidOpcode .addressOutOfRange w s.pc ∨
         f = .stackOverflow w s.pc ∨ f = .stackUnderflow w s.pc)))

/-- Whether a running engine's step faults, and with which record, depends on pc, memory, I and SP alone: never on the keys,
the timers, the registers, the screen or the random source (60_exceptions.md section 1, R187's inference). -/
def Obligations.StepFaultsDependOnlyOnPcMemoryIndexDepth : Prop :=
  ∀ (s s' : State) (f : Fault), s.mode = .running → s'.mode = .running → s'.pc = s.pc → s'.i = s.i → s'.sp = s.sp →
    (∀ a, s'.mem.read a = s.mem.read a) → step s = .fault f → step s' = .fault f

/-- No step refuses: every step answers a next state or one of the spec's faults (R216: "every step in any state is
defined"). -/
def Obligations.NoStepIsRefused : Prop :=
  ∀ s : State, (∃ t, step s = .next t) ∨ (∃ f, step s = .fault f)

/-- R189: an instruction faults on exactly its own condition, with the fault kind the table names, and completes
otherwise; the other 28 instructions complete in every state. -/
def Obligations.InstructionsFaultExactlyOnTheirCondition : Prop :=
  ∀ (i : Instr) (s : State),
    (¬ Traps i s → ∃ t, exec i s = .next t) ∧
    (Traps i s → match i with
      | .op2NNN _ => ∃ w p, exec i s = .fault (.stackOverflow w p)
      | .op00EE => ∃ w p, exec i s = .fault (.stackUnderflow w p)
      | _ => ∃ w p, exec i s = .fault (.invalidOpcode .addressOutOfRange w p))

/-- R24: the new pc of every instruction, and of the poll that captures a key; a poll that captures none, and a step that
raises a fault, leave pc. -/
def Obligations.EveryInstructionSetsPcByTheTable : Prop :=
  (∀ (i : Instr) (s t : State), exec i s = .next t → t.pc = pcAfter i s) ∧
  (∀ s t : State, s.mode = .awaitingKey → step s = .next t →
    (t.mode = .running → t.pc = s.pc + 2#16) ∧ (t.mode = .awaitingKey → t.pc = s.pc)) ∧
  (∀ (e : Session) (f : Fault), (applyEvent .step e).2 = .raised f → (applyEvent .step e).1.core.pc = e.core.pc)

/-- Whatever an instruction does, it writes no part of the state but those its rule names, and no general register but
those its rule names: for example only `FX33` and `FX55` write memory (20_memory.md section 1), only `2NNN` and
`00EE` the call stack, only `00E0` and `DXYN` the framebuffer and REDRAW, only `FX15` and `FX18` a timer, and none the keypad
latch (10_state.md sections 1 to 7); that V[Y] and the register a skip looks at keep their value is in the instruction rules
of 40_flow.md to 45_keypad_timer_random.md. -/
def Obligations.InstructionsWriteOnlyWhatTheirRulesName : Prop :=
  ∀ (i : Instr) (s t : State), exec i s = .next t →
    SameExcept (.regs :: partsWritten i) s t ∧ RegsSameExcept (regsWritten i) s t

/-! ### Flow (40_flow.md) -/

/-- R101, R103: the two jumps, for every NNN; nothing but pc changes, and neither faults.  A target above 0xFFE is written
as it is, and a running engine's next step faults at fetch there. -/
def Obligations.JumpsSetPc : Prop :=
  ∀ (nnn : Addr) (s : State),
    (encode (.op1NNN nnn) = 0x1000#16 ||| nnn.setWidth 16 ∧
      ∃ t, exec (.op1NNN nnn) s = .next t ∧ t.pc.toNat = nnn.toNat ∧ SameExcept [.pc] s t ∧
        (s.mode = .running → nnn.toNat = 0xFFF → ∃ w, step t = .fault (.invalidOpcode .addressOutOfRange w t.pc))) ∧
    (encode (.opBNNN nnn) = 0xB000#16 ||| nnn.setWidth 16 ∧
      ∃ t, exec (.opBNNN nnn) s = .next t ∧ t.pc.toNat = (s.reg V0).toNat + nnn.toNat ∧ SameExcept [.pc] s t ∧
        (s.mode = .running → (s.reg V0).toNat + nnn.toNat > 0xFFE →
          ∃ w, step t = .fault (.invalidOpcode .addressOutOfRange w t.pc)))

/-- R27, R102: a call with SP below 16 stores its own address in the slot at SP, adds one to SP and jumps; with SP = 16 it
raises StackOverflow.  No other slot and no other part changes. -/
def Obligations.CallPushesItsOwnAddress : Prop :=
  ∀ (nnn : Addr) (s : State),
    encode (.op2NNN nnn) = 0x2000#16 ||| nnn.setWidth 16 ∧
    (s.sp.val < 16 → ∃ t, exec (.op2NNN nnn) s = .next t ∧ t.sp.val = s.sp.val + 1 ∧ t.pc.toNat = nnn.toNat ∧
      (∀ k : Fin 16, t.stack[k] = if k.val = s.sp.val then s.pc else s.stack[k]) ∧ SameExcept [.pc, .stack] s t) ∧
    (s.sp.val = 16 → ∃ w p, exec (.op2NNN nnn) s = .fault (.stackOverflow w p))

/-- R28, R100: a return with SP above 0 takes one from SP and resumes two past the newest live slot's address; the slot
keeps its stale value; resuming past 0xFFE a running engine's next step faults at fetch; with SP = 0 it raises
StackUnderflow. -/
def Obligations.ReturnResumesAfterTheCall : Prop :=
  ∀ s : State, encode .op00EE = 0x00EE#16 ∧
    (∀ k : Fin 16, k.val + 1 = s.sp.val → ∃ t, exec .op00EE s = .next t ∧ t.sp.val = k.val ∧
      t.pc = s.stack[k] + 2#16 ∧ (∀ j : Fin 16, t.stack[j] = s.stack[j]) ∧ SameExcept [.pc, .stack] s t ∧
      (s.mode = .running → t.pc.toNat > 0xFFE → ∃ w, step t = .fault (.invalidOpcode .addressOutOfRange w t.pc))) ∧
    (s.sp.val = 0 → ∃ w p, exec .op00EE s = .fault (.stackUnderflow w p))

/-- A call followed eventually by a return, once SP and the live slots are as the call left them, resumes at the
instruction after the call with the depth and the live slots from before the call.  The stale slots may hold anything, so
the subroutine's body may have made calls of its own, if each has returned (40_flow.md; 95_test_vectors.md E10). -/
def Obligations.CallThenReturnRoundTrip : Prop :=
  ∀ (nnn : Addr) (s t t' : State), exec (.op2NNN nnn) s = .next t →
    t'.sp = t.sp → (∀ k : Fin 16, k.val < t.sp.val → t'.stack[k] = t.stack[k]) →
    ∃ u, exec .op00EE t' = .next u ∧ u.pc = s.pc + 2#16 ∧ u.sp = s.sp ∧
      (∀ k : Fin 16, k.val < s.sp.val → u.stack[k] = s.stack[k]) ∧ SameExcept [.pc, .stack] t' u

/-- R183: with an empty stack sixteen nested calls complete and the seventeenth raises StackOverflow. -/
def Obligations.SeventeenthNestedCallOverflows : Prop :=
  ∀ (targets : List Addr) (s : State), s.sp.val = 0 →
    (targets.length ≤ 16 → ∃ t, execAll (targets.map .op2NNN) s = .next t ∧ t.sp.val = targets.length) ∧
    (17 ≤ targets.length → ∃ w p, execAll (targets.map .op2NNN) s = .fault (.stackOverflow w p))

/-! ### Skips (41_skip.md) -/

/-- R110 to R113: the four register skips advance pc by 4 when their condition holds and by 2 when it does not; nothing
but pc changes. -/
def Obligations.SkipsOnRegisterValues : Prop :=
  ∀ (x y : RegId) (nn : Byte) (s : State),
    (encode (.op3XNN x nn) = 0x3000#16 ||| xAt8 x ||| nn.setWidth 16 ∧ ∃ t, exec (.op3XNN x nn) s = .next t ∧
      (s.reg x = nn → t.pc = s.pc + 4#16) ∧ (s.reg x ≠ nn → t.pc = s.pc + 2#16) ∧ SameExcept [.pc] s t) ∧
    (encode (.op4XNN x nn) = 0x4000#16 ||| xAt8 x ||| nn.setWidth 16 ∧ ∃ t, exec (.op4XNN x nn) s = .next t ∧
      (s.reg x ≠ nn → t.pc = s.pc + 4#16) ∧ (s.reg x = nn → t.pc = s.pc + 2#16) ∧ SameExcept [.pc] s t) ∧
    (encode (.op5XY0 x y) = 0x5000#16 ||| xAt8 x ||| yAt4 y ∧ ∃ t, exec (.op5XY0 x y) s = .next t ∧
      (s.reg x = s.reg y → t.pc = s.pc + 4#16) ∧ (s.reg x ≠ s.reg y → t.pc = s.pc + 2#16) ∧ SameExcept [.pc] s t) ∧
    (encode (.op9XY0 x y) = 0x9000#16 ||| xAt8 x ||| yAt4 y ∧ ∃ t, exec (.op9XY0 x y) s = .next t ∧
      (s.reg x ≠ s.reg y → t.pc = s.pc + 4#16) ∧ (s.reg x = s.reg y → t.pc = s.pc + 2#16) ∧ SameExcept [.pc] s t)

/-! ### Load and ALU (42_load_alu.md) -/

/-- R120, R122: load immediate and copy; VX alone is written, VF only if X is 0xF. -/
def Obligations.LoadImmediateAndCopy : Prop :=
  ∀ (x y : RegId) (nn : Byte) (s : State),
    (encode (.op6XNN x nn) = 0x6000#16 ||| xAt8 x ||| nn.setWidth 16 ∧
      ∃ t, exec (.op6XNN x nn) s = .next t ∧ t.reg x = nn ∧ Advanced [] [x] s t) ∧
    (encode (.op8XY0 x y) = 0x8000#16 ||| xAt8 x ||| yAt4 y ∧
      ∃ t, exec (.op8XY0 x y) s = .next t ∧ t.reg x = s.reg y ∧ Advanced [] [x] s t)

/-- R121: add immediate wraps modulo 256 and writes no flag. -/
def Obligations.AddImmediateWrapsWithoutFlag : Prop :=
  ∀ (x : RegId) (nn : Byte) (s : State),
    encode (.op7XNN x nn) = 0x7000#16 ||| xAt8 x ||| nn.setWidth 16 ∧
    ∃ t, exec (.op7XNN x nn) s = .next t ∧ (t.reg x).toNat = ((s.reg x).toNat + nn.toNat) % 256 ∧ Advanced [] [x] s t

/-- R123 to R125: OR, AND and XOR, bit by bit, and no flag. -/
def Obligations.BitwiseOperationsWriteNoFlag : Prop :=
  ∀ (x y : RegId) (s : State),
    (encode (.op8XY1 x y) = 0x8001#16 ||| xAt8 x ||| yAt4 y ∧ ∃ t, exec (.op8XY1 x y) s = .next t ∧
      (∀ b < 8, (t.reg x).getLsbD b = ((s.reg x).getLsbD b || (s.reg y).getLsbD b)) ∧ Advanced [] [x] s t) ∧
    (encode (.op8XY2 x y) = 0x8002#16 ||| xAt8 x ||| yAt4 y ∧ ∃ t, exec (.op8XY2 x y) s = .next t ∧
      (∀ b < 8, (t.reg x).getLsbD b = ((s.reg x).getLsbD b && (s.reg y).getLsbD b)) ∧ Advanced [] [x] s t) ∧
    (encode (.op8XY3 x y) = 0x8003#16 ||| xAt8 x ||| yAt4 y ∧ ∃ t, exec (.op8XY3 x y) s = .next t ∧
      (∀ b < 8, (t.reg x).getLsbD b = ((s.reg x).getLsbD b ^^ (s.reg y).getLsbD b)) ∧ Advanced [] [x] s t)

/-- 8XY4 for every X and Y: the carry goes to VF first, and the sum is then formed from the registers as that left them, so
an operand that is VF contributes the carry (42_load_alu.md; the order is decision D12 of the spec, log entry 5). -/
def Obligations.AddWithCarryOut : Prop :=
  ∀ (x y : RegId) (s : State), ∃ t, exec (.op8XY4 x y) s = .next t ∧ Advanced [] [x, VF] s t ∧
    ∀ c a b : Nat, c = (if (s.reg x).toNat + (s.reg y).toNat > 255 then 1 else 0) →
      a = (if x = VF then c else (s.reg x).toNat) → b = (if y = VF then c else (s.reg y).toNat) →
      (t.reg x).toNat = (a + b) % 256 ∧ (x ≠ VF → (t.reg VF).toNat = c)

/-- 8XY5 and 8XY7 for every X and Y: VF is 1 when no borrow occurs (minuend ≥ subtrahend) and is written first; an operand
that is VF contributes that flag (42_load_alu.md; the order is decision D12 of the spec, log entry 5). -/
def Obligations.SubtractWithNoBorrowFlag : Prop :=
  ∀ (x y : RegId) (s : State),
    (∃ t, exec (.op8XY5 x y) s = .next t ∧ Advanced [] [x, VF] s t ∧
      ∀ c a b : Nat, c = (if (s.reg x).toNat ≥ (s.reg y).toNat then 1 else 0) →
        a = (if x = VF then c else (s.reg x).toNat) → b = (if y = VF then c else (s.reg y).toNat) →
        (t.reg x).toNat = (if a ≥ b then a - b else a + 256 - b) ∧ (x ≠ VF → (t.reg VF).toNat = c)) ∧
    (∃ t, exec (.op8XY7 x y) s = .next t ∧ Advanced [] [x, VF] s t ∧
      ∀ c a b : Nat, c = (if (s.reg y).toNat ≥ (s.reg x).toNat then 1 else 0) →
        a = (if y = VF then c else (s.reg y).toNat) → b = (if x = VF then c else (s.reg x).toNat) →
        (t.reg x).toNat = (if a ≥ b then a - b else a + 256 - b) ∧ (x ≠ VF → (t.reg VF).toNat = c))

/-- 8XY6 and 8XYE for every X and Y: by one position, the bit shifted out to VF first, V[Y] without effect; with X = 0xF
the flag itself is shifted (42_load_alu.md; the order is decision D12 of the spec, log entry 5). -/
def Obligations.ShiftsByOne : Prop :=
  ∀ (x y : RegId) (s : State),
    (∃ t, exec (.op8XY6 x y) s = .next t ∧ Advanced [] [x, VF] s t ∧
      (x ≠ VF → (t.reg x).toNat = (s.reg x).toNat / 2 ∧ (t.reg VF).toNat = (s.reg x).toNat % 2) ∧
      (x = VF → t.reg VF = 0#8)) ∧
    (∃ t, exec (.op8XYE x y) s = .next t ∧ Advanced [] [x, VF] s t ∧
      (x ≠ VF → (t.reg x).toNat = (s.reg x).toNat * 2 % 256 ∧ (t.reg VF).toNat = (s.reg x).toNat / 128) ∧
      (x = VF → (t.reg VF).toNat = if (s.reg VF).toNat ≥ 128 then 2 else 0))

/-- The six instructions that write VF as a flag leave 0 or 1 there whenever VF is not also their destination
(10_state.md section 1). -/
def Obligations.FlagValuesAreZeroOrOne : Prop :=
  ∀ (i : Instr) (x y : RegId) (n : Nibble) (s t : State),
    (i ∈ [.op8XY4 x y, .op8XY5 x y, .op8XY6 x y, .op8XY7 x y, .op8XYE x y] ∧ x ≠ VF ∨ i = .opDXYN x y n) →
    exec i s = .next t → t.reg VF = 0#8 ∨ t.reg VF = 1#8

/-! ### Index register and memory (43_index_memory.md) -/

/-- R140: I is NNN; nothing else but pc changes. -/
def Obligations.LoadIndex : Prop :=
  ∀ (nnn : Addr) (s : State), encode (.opANNN nnn) = 0xA000#16 ||| nnn.setWidth 16 ∧
    ∃ t, exec (.opANNN nnn) s = .next t ∧ t.i.toNat = nnn.toNat ∧ Advanced [.index] [] s t

/-- FX1E adds modulo 65536 and writes no flag; FX29 multiplies the whole byte by 5 (43_index_memory.md; the wrap is decision
D8 and the missing mask decision D14 of the spec, log entries 9 and 11). -/
def Obligations.AddToIndexAndFontAddress : Prop :=
  ∀ (x : RegId) (s : State),
    (∃ t, exec (.opFX1E x) s = .next t ∧ t.i.toNat = (s.i.toNat + (s.reg x).toNat) % 65536 ∧
      Advanced [.index] [] s t) ∧
    (∃ t, exec (.opFX29 x) s = .next t ∧ t.i.toNat = 5 * (s.reg x).toNat ∧ Advanced [.index] [] s t)

/-- R143: the three decimal digits of V[X] go to I, I+1 and I+2, and no other byte changes; I + 2 above 0xFFF faults. -/
def Obligations.StoreDecimalDigits : Prop :=
  ∀ (x : RegId) (s : State), encode (.opFX33 x) = 0xF033#16 ||| xAt8 x ∧
    (s.base + 2 ≤ 0xFFF → ∃ t, exec (.opFX33 x) s = .next t ∧
      (t.mem.read s.base).toNat = (s.reg x).toNat / 100 ∧
      (t.mem.read (s.base + 1)).toNat = (s.reg x).toNat / 10 % 10 ∧
      (t.mem.read (s.base + 2)).toNat = (s.reg x).toNat % 10 ∧
      (∀ a, a < s.base ∨ s.base + 3 ≤ a → t.mem.read a = s.mem.read a) ∧ Advanced [.memory] [] s t) ∧
    (s.base + 2 > 0xFFF → ∃ w p, exec (.opFX33 x) s = .fault (.invalidOpcode .addressOutOfRange w p))

/-- R144: V0 to VX go to I to I+X, and no other byte, no register and not I changes; I + X above 0xFFF faults. -/
def Obligations.StoreRegisters : Prop :=
  ∀ (x : RegId) (s : State), encode (.opFX55 x) = 0xF055#16 ||| xAt8 x ∧
    (s.base + x.toNat ≤ 0xFFF → ∃ t, exec (.opFX55 x) s = .next t ∧
      (∀ k : RegId, k.toNat ≤ x.toNat → t.mem.read (s.base + k.toNat) = s.reg k) ∧
      (∀ a, a < s.base ∨ s.base + x.toNat < a → t.mem.read a = s.mem.read a) ∧ Advanced [.memory] [] s t) ∧
    (s.base + x.toNat > 0xFFF → ∃ w p, exec (.opFX55 x) s = .fault (.invalidOpcode .addressOutOfRange w p))

/-- R145: the bytes at I to I+X go to V0 to VX; the registers above X, I and memory keep their values; I + X above 0xFFF
faults. -/
def Obligations.LoadRegisters : Prop :=
  ∀ (x : RegId) (s : State), encode (.opFX65 x) = 0xF065#16 ||| xAt8 x ∧
    (s.base + x.toNat ≤ 0xFFF → ∃ t, exec (.opFX65 x) s = .next t ∧ t.pc = s.pc + 2#16 ∧
      (∀ k : RegId, t.reg k = if k.toNat ≤ x.toNat then s.mem.read (s.base + k.toNat) else s.reg k) ∧
      SameExcept [.pc, .regs] s t) ∧
    (s.base + x.toNat > 0xFFF → ∃ w p, exec (.opFX65 x) s = .fault (.invalidOpcode .addressOutOfRange w p))

/-- A store is seen by the very next fetch: after `FX55` with X ≥ 1, an engine whose pc addresses the stored bytes fetches
V0 ++ V1 (20_memory.md section 6). -/
def Obligations.StoreIsSeenByTheNextFetch : Prop :=
  ∀ (x : RegId) (s t : State), 1 ≤ x.toNat → exec (.opFX55 x) s = .next t →
    (t.setPc s.i).fetchWord? = some (s.reg 0#4 ++ s.reg 1#4)

/-! ### Display (44_display.md) -/

/-- 00E0 turns every cell off and sets REDRAW, whether or not a cell changed (44_display.md; that it is set even then is
decision D16 of the spec, log entry 12); VF keeps its value. -/
def Obligations.ClearScreen : Prop :=
  ∀ s : State, ∃ t, exec .op00E0 s = .next t ∧ (∀ p : Pixel, t.fb.cell p = false) ∧ t.redraw = true ∧
    Advanced [.framebuffer, .redraw] [] s t

/-- DXYN toggles exactly the cells that a 1 bit of the sprite at I covers, wrapped at both edges; VF is 1 exactly when one
of those cells was on; REDRAW is set; I, memory and the other registers keep their values (44_display.md).  With N = 0 it
completes for every I and draws nothing (decision D15 of the spec, log entry 12). -/
def Obligations.DrawSpriteByXor : Prop :=
  ∀ (x y : RegId) (n : Nibble) (s : State) (sprite : List Byte),
    n.toNat = 0 ∨ s.base + n.toNat - 1 ≤ 0xFFF → sprite.length = n.toNat →
    (∀ r < n.toNat, sprite[r]? = some (s.mem.read (s.base + r))) →
    ∃ t, exec (.opDXYN x y n) s = .next t ∧
      (∀ p : Pixel, t.fb.cell p ≠ s.fb.cell p ↔ Covers sprite (s.reg x).toNat (s.reg y).toNat p.1.val p.2.val) ∧
      ((∃ p : Pixel, s.fb.cell p = true ∧ t.fb.cell p = false) → t.reg VF = 1#8) ∧
      ((∀ p : Pixel, s.fb.cell p = true → t.fb.cell p = true) → t.reg VF = 0#8) ∧
      t.redraw = true ∧ Advanced [.framebuffer, .redraw] [VF] s t

/-- DXYN whose highest sprite address is above 0xFFF faults (44_display.md, 20_memory.md section 5); it draws nothing then, a
fault having no next state (decision D9 of the spec, log entry 6).  The fields of the record are decision D10 of the spec;
that its word is the encoded word of the instruction is deduced by the model (log entry 6). -/
def Obligations.DrawSpriteOutOfRangeFaults : Prop :=
  ∀ (x y : RegId) (n : Nibble) (s : State), 1 ≤ n.toNat → s.base + n.toNat - 1 > 0xFFF →
    exec (.opDXYN x y n) s = .fault (.invalidOpcode .addressOutOfRange (encode (.opDXYN x y n)) s.pc)

/-- Drawing the same sprite twice at the same place restores every cell; if the sprite has a 1 bit and no cell under its 1
bits was on, the first draw leaves VF = 0 and the second VF = 1 (44_display.md, 90_conflicts.md C7; neither X nor Y is
VF). -/
def Obligations.DrawingTwiceRestoresTheScreen : Prop :=
  ∀ (x y : RegId) (n : Nibble) (s t : State), x ≠ VF → y ≠ VF → exec (.opDXYN x y n) s = .next t →
    ∃ u, exec (.opDXYN x y n) t = .next u ∧ (∀ p : Pixel, u.fb.cell p = s.fb.cell p) ∧
      ((∃ p : Pixel, t.fb.cell p ≠ s.fb.cell p) → (∀ p : Pixel, t.fb.cell p ≠ s.fb.cell p → s.fb.cell p = false) →
        t.reg VF = 0#8 ∧ u.reg VF = 1#8)

/-! ### Keypad, timers, random (45_keypad_timer_random.md) -/

/-- EX9E skips exactly when the key named by V[X] is down and EXA1 exactly when it is not; a V[X] above 0xF names no key and
is not down (45_keypad_timer_random.md; the last is decision D13 of the spec, log entry 10).  Nothing but pc changes. -/
def Obligations.SkipsOnKeys : Prop :=
  ∀ (x : RegId) (s : State),
    (∃ t, exec (.opEX9E x) s = .next t ∧ SameExcept [.pc] s t ∧
      ((∃ k : Fin 16, k.val = (s.reg x).toNat ∧ s.keys[k] = true) → t.pc = s.pc + 4#16) ∧
      ((∀ k : Fin 16, k.val = (s.reg x).toNat → s.keys[k] = false) → t.pc = s.pc + 2#16)) ∧
    (∃ t, exec (.opEXA1 x) s = .next t ∧ SameExcept [.pc] s t ∧
      ((∃ k : Fin 16, k.val = (s.reg x).toNat ∧ s.keys[k] = true) → t.pc = s.pc + 2#16) ∧
      ((∀ k : Fin 16, k.val = (s.reg x).toNat → s.keys[k] = false) → t.pc = s.pc + 4#16))

/-- R162: FX0A enters `AwaitingKey` with its X in WREG, does not look at the keypad and leaves pc and all else. -/
def Obligations.WaitForKeyEntersAwaitingKey : Prop :=
  ∀ (x : RegId) (s : State), encode (.opFX0A x) = 0xF00A#16 ||| xAt8 x ∧
    ∃ t, exec (.opFX0A x) s = .next t ∧ t.mode = .awaitingKey ∧ t.wreg = x ∧ SameExcept [.engine] s t

/-- R163: a step while `AwaitingKey` captures the least key that is down into V[WREG], moves pc by 2 and runs again; with no
key down nothing changes.  It reads no memory and cannot fault. -/
def Obligations.AwaitingKeyPollCapturesLowestKey : Prop :=
  ∀ s : State, s.mode = .awaitingKey →
    (∀ k : Fin 16, s.keys[k] = true → (∀ j : Fin 16, j < k → s.keys[j] = false) →
      ∃ t, step s = .next t ∧ (t.reg s.wreg).toNat = k.val ∧ t.pc = s.pc + 2#16 ∧ t.mode = .running ∧
        SameExcept [.pc, .regs, .engine] s t ∧ RegsSameExcept [s.wreg] s t) ∧
    ((∀ k : Fin 16, s.keys[k] = false) → step s = .next s)

/-- R164, R165: FX07 copies DT to V[X] and leaves DT; FX15 copies V[X] to DT. -/
def Obligations.DelayTimerAccess : Prop :=
  ∀ (x : RegId) (s : State),
    (encode (.opFX07 x) = 0xF007#16 ||| xAt8 x ∧
      ∃ t, exec (.opFX07 x) s = .next t ∧ t.reg x = s.dt ∧ Advanced [] [x] s t) ∧
    (encode (.opFX15 x) = 0xF015#16 ||| xAt8 x ∧
      ∃ t, exec (.opFX15 x) s = .next t ∧ t.dt = s.reg x ∧ Advanced [.delay] [] s t)

/-- R167: FX18 copies V[X] to ST, and no instruction reads ST back: whatever ST holds, an instruction completes alike and
leaves every other part of the state alike. -/
def Obligations.SoundTimerIsSetAndNeverRead : Prop :=
  (∀ (x : RegId) (s : State), encode (.opFX18 x) = 0xF018#16 ||| xAt8 x ∧
    ∃ t, exec (.opFX18 x) s = .next t ∧ t.st = s.reg x ∧ Advanced [.sound] [] s t) ∧
  (∀ (i : Instr) (s t : State) (b : Byte), exec i s = .next t →
    ∃ u, exec i (s.setSt b) = .next u ∧ SameExcept [.sound] t u)

/-- CXNN writes the byte drawn, masked with NN, and draws exactly one byte; the byte is a free value, so this holds for
every sequence of random bytes (45_keypad_timer_random.md; decision D18 of the spec, log entry 2).  No bit outside NN is
ever set. -/
def Obligations.RandomByteMasked : Prop :=
  ∀ (x : RegId) (nn : Byte) (s : State), ∃ t, exec (.opCXNN x nn) s = .next t ∧
    t.reg x = Config.randomByte s.draws &&& nn ∧ (∀ b < 8, nn.getLsbD b = false → (t.reg x).getLsbD b = false) ∧
    t.draws = s.draws + 1 ∧ Advanced [.draws] [x] s t

/-! ### Events (60_exceptions.md, 70_reset_and_hazards.md) -/

/-- R195: a tick takes one from each nonzero timer, leaves a timer at 0, and changes nothing else. -/
def Obligations.TickCountsEachTimerDown : Prop :=
  ∀ s : State, ((s.dt ≠ 0#8 → (tick s).dt.toNat + 1 = s.dt.toNat) ∧ (s.dt = 0#8 → (tick s).dt = 0#8)) ∧
    ((s.st ≠ 0#8 → (tick s).st.toNat + 1 = s.st.toNat) ∧ (s.st = 0#8 → (tick s).st = 0#8)) ∧
    SameExcept [.delay, .sound] s (tick s)

/-- key_press and key_release set and clear the flag of their key and nothing else; an identifier above 0xF raises
InvalidKey (60_exceptions.md section 4; the 8-bit width of the identifier is decision D19 of the spec, log entry 10). -/
def Obligations.KeyEventsSetAndClear : Prop :=
  ∀ (id : Byte) (s : State),
    (id.toNat ≤ 0xF →
      (∃ t, keyPress id s = .next t ∧ (∀ k : Fin 16, t.keys[k] = if k.val = id.toNat then true else s.keys[k]) ∧
        SameExcept [.keys] s t) ∧
      (∃ t, keyRelease id s = .next t ∧ (∀ k : Fin 16, t.keys[k] = if k.val = id.toNat then false else s.keys[k]) ∧
        SameExcept [.keys] s t)) ∧
    (id.toNat > 0xF → keyPress id s = .fault (.invalidKey id) ∧ keyRelease id s = .fault (.invalidKey id))

/-- load_program copies an image of at most 0xE00 bytes from 0x200 up and changes nothing else; a longer one raises
ProgramTooLarge with its length (70_reset_and_hazards.md section 2; that nothing is copied then is decision D20 of the
spec, log entry 8). -/
def Obligations.LoadProgramCopiesTheImage : Prop :=
  ∀ (bytes : List Byte) (s : State),
    (bytes.length ≤ 0xE00 → ∃ t, loadProgram bytes s = .next t ∧
      (∀ k b, bytes[k]? = some b → t.mem.read (0x200 + k) = b) ∧
      (∀ a, a < 0x200 ∨ 0x200 + bytes.length ≤ a → t.mem.read a = s.mem.read a) ∧ SameExcept [.memory] s t) ∧
    (bytes.length > 0xE00 → loadProgram bytes s = .fault (.programTooLarge bytes.length))

/-- R44: take_redraw returns the old value of REDRAW and clears it; nothing else changes. -/
def Obligations.TakeRedrawReturnsAndClears : Prop :=
  ∀ s : State, (takeRedraw s).1 = s.redraw ∧ (takeRedraw s).2.redraw = false ∧
    SameExcept [.redraw] s (takeRedraw s).2

/-- REDRAW, once set, stays set under every event but take_redraw and reset (10_state.md section 6). -/
def Obligations.RedrawStaysSetUntilTaken : Prop :=
  ∀ (ev : Event) (e : Session), e.core.redraw = true → ev ≠ .reset → ev ≠ .takeRedraw →
    (applyEvent ev e).1.core.redraw = true

/-- An event that raises a fault leaves the core as it was, and a step fault recurs at the next step with the same record
(60_exceptions.md section 1; that nothing changes is decision D9 of the spec, log entry 6). -/
def Obligations.FaultingEventsChangeNothing : Prop :=
  ∀ (ev : Event) (e : Session) (f : Fault), (applyEvent ev e).2 = .raised f →
    (applyEvent ev e).1.core = e.core ∧
    (ev = .step → (applyEvent .step (applyEvent .step e).1).2 = .raised f)

/-- Once a step has been issued, a load has no transition until a reset: whatever other events follow the step (ticks, keys,
steps, taken redraws, refused loads), it is refused and changes nothing.  From a reset on, whatever events other than a step
follow, a load of at most 0xE00 bytes is accepted (70_reset_and_hazards.md section 2; decision D20 of the spec,
log entry 8). -/
def Obligations.LoadOnlyBeforeTheFirstStep : Prop :=
  ∀ (bytes : List Byte) (evs : List Event) (e : Session),
    (Event.reset ∉ evs →
      applyEvent (.loadProgram bytes) (applyEvents evs (applyEvent .step e).1) =
        (applyEvents evs (applyEvent .step e).1, .refused .loadAfterFirstStep)) ∧
    (Event.step ∉ evs → bytes.length ≤ 0xE00 →
      (applyEvent (.loadProgram bytes) (applyEvents evs (applyEvent .reset e).1)).2 = .ok)

/-- What reset leaves, right after construction and after the reset event from any session: pc is 0x200 (the document's), the
engine runs, and every other register, slot, key and cell is zero (decision D2 of the spec, log entry 3); memory reads 0x00
above the font (decision D3, log entry 4) and the sixteen glyphs below (decision D5, log entry 1).  The event returns no fault,
and nothing of the state before survives it. -/
def Obligations.ResetValues : Prop :=
  HasResetValues State.reset ∧
  ∀ e : Session, (applyEvent .reset e).2 = .ok ∧ HasResetValues (applyEvent .reset e).1.core

/-- A step before any load raises InvalidOpcode(NoDecodeRule) with the word 0x0000 at pc 0x200 (70_reset_and_hazards.md
section 3; it rests on the zero-filled memory of decision D3, log entry 4). -/
def Obligations.StepBeforeLoadFaults : Prop :=
  step State.reset = .fault (.invalidOpcode .noDecodeRule 0x0000#16 0x0200#16)

/-- The framebuffer snapshot is row-major: cell (x, y) is element y * 64 + x of 2048 (10_state.md section 6). -/
def Obligations.SnapshotIsRowMajor : Prop :=
  ∀ s : State, (snapshot s).length = 2048 ∧
    ∀ p : Pixel, (snapshot s)[p.2.val * 64 + p.1.val]? = some (s.fb.cell p)

/-! ### The invariant -/

/-- The state after reset meets the invariant: canonical memory, pc in the range of R25, live stack slots fetchable. -/
def Obligations.ResetMeetsInvariant : Prop := State.reset.Inv

/-- Every step that completes keeps the invariant, from any state that meets it, reachable or not: memory stays canonical
and inside 0x000 to 0xFFF, pc stays at most 0x10FE and below 0xFFF while a key is awaited, and every live stack slot holds
an address at which a fetch succeeded (10_state.md section 2, R25). -/
def Obligations.StepKeepsInvariant : Prop :=
  ∀ s t : State, s.Inv → step s = .next t → t.Inv

/-- Every sequence of the seven events keeps the invariant, whatever their order, faults and refusals included. -/
def Obligations.EventsKeepInvariant : Prop :=
  ∀ (evs : List Event) (e : Session), e.core.Inv → (applyEvents evs e).core.Inv

/-! ### The places of the operands -/

/-- Every operand of the instruction a word decodes to is the field of that word that the encoding names: X = bits 8 to 11,
Y = bits 4 to 7, N = bits 0 to 3, NN = bits 0 to 7, NNN = bits 0 to 11, for all 34 instructions (30_encoding.md
section 1). -/
def Obligations.OperandsAreTheFieldsOfTheWord : Prop :=
  ∀ (w : Word) (i : Instr), decodeWord w = some i → OperandsAreFields w i
end

