-- ==== Sys2Proof/Laws/Decode.lean ====
section
/-! SUPPORT. The fields of an encoded word, one lemma per format and field; the bytes of a word. -/

namespace Sys2Proof

/-! The bits of a concatenation, at the widths of the formats. -/

theorem getLsbD_op_nnn (op : Nibble) (nnn : Addr) (i : Nat) :
    BitVec.getLsbD (w := 16) (op ++ nnn) i = if i < 12 then nnn.getLsbD i else op.getLsbD (i - 12) :=
  BitVec.getLsbD_append

theorem getLsbD_x_nn (x : RegId) (nn : Byte) (i : Nat) :
    BitVec.getLsbD (w := 12) (x ++ nn) i = if i < 8 then nn.getLsbD i else x.getLsbD (i - 8) :=
  BitVec.getLsbD_append

theorem getLsbD_y_n (y : RegId) (n : Nibble) (i : Nat) :
    BitVec.getLsbD (w := 8) (y ++ n) i = if i < 4 then n.getLsbD i else y.getLsbD (i - 4) :=
  BitVec.getLsbD_append

theorem getLsbD_hi_lo (hi lo : Byte) (i : Nat) :
    BitVec.getLsbD (w := 16) (hi ++ lo) i = if i < 8 then lo.getLsbD i else hi.getLsbD (i - 8) :=
  BitVec.getLsbD_append

@[simp] theorem opField_encodeAddr (op : Nibble) (nnn : Addr) : opField (encodeAddr op nnn) = op := by
  refine BitVec.eq_of_getLsbD_eq fun i hi => ?_
  simp [opField, encodeAddr, getLsbD_op_nnn, hi, -BitVec.getLsbD_eq_getElem]

@[simp] theorem nnnField_encodeAddr (op : Nibble) (nnn : Addr) : nnnField (encodeAddr op nnn) = nnn := by
  refine BitVec.eq_of_getLsbD_eq fun i hi => ?_
  simp [nnnField, encodeAddr, getLsbD_op_nnn, hi, -BitVec.getLsbD_eq_getElem]

@[simp] theorem opField_encodeRegByte (op : Nibble) (x : RegId) (nn : Byte) :
    opField (encodeRegByte op x nn) = op := opField_encodeAddr op (x ++ nn)

@[simp] theorem xField_encodeRegByte (op : Nibble) (x : RegId) (nn : Byte) :
    xField (encodeRegByte op x nn) = x := by
  refine BitVec.eq_of_getLsbD_eq fun i hi => ?_
  simp [xField, encodeRegByte, getLsbD_op_nnn, getLsbD_x_nn, hi, show 8 + i < 12 by omega, -BitVec.getLsbD_eq_getElem]

@[simp] theorem nnField_encodeRegByte (op : Nibble) (x : RegId) (nn : Byte) :
    nnField (encodeRegByte op x nn) = nn := by
  refine BitVec.eq_of_getLsbD_eq fun i hi => ?_
  simp [nnField, encodeRegByte, getLsbD_op_nnn, getLsbD_x_nn, hi, show i < 12 by omega, -BitVec.getLsbD_eq_getElem]

@[simp] theorem opField_encodeRegReg (op : Nibble) (x y : RegId) (n : Nibble) :
    opField (encodeRegReg op x y n) = op := opField_encodeAddr op (x ++ (y ++ n))

@[simp] theorem xField_encodeRegReg (op : Nibble) (x y : RegId) (n : Nibble) :
    xField (encodeRegReg op x y n) = x := xField_encodeRegByte op x (y ++ n)

@[simp] theorem yField_encodeRegReg (op : Nibble) (x y : RegId) (n : Nibble) :
    yField (encodeRegReg op x y n) = y := by
  refine BitVec.eq_of_getLsbD_eq fun i hi => ?_
  simp [yField, encodeRegReg, getLsbD_op_nnn, getLsbD_x_nn, getLsbD_y_n, hi, show 4 + i < 12 by omega, show 4 + i < 8 by omega, -BitVec.getLsbD_eq_getElem]

@[simp] theorem nField_encodeRegReg (op : Nibble) (x y : RegId) (n : Nibble) :
    nField (encodeRegReg op x y n) = n := by
  refine BitVec.eq_of_getLsbD_eq fun i hi => ?_
  simp [nField, encodeRegReg, getLsbD_op_nnn, getLsbD_x_nn, getLsbD_y_n, hi, show i < 12 by omega, show i < 8 by omega, -BitVec.getLsbD_eq_getElem]

/-- A word is OP ++ NNN. -/
theorem encodeAddr_fields (w : Word) : encodeAddr (opField w) (nnnField w) = w := by
  refine BitVec.eq_of_getLsbD_eq fun i hi => ?_
  by_cases h : i < 12
  · simp [opField, nnnField, encodeAddr, getLsbD_op_nnn, h, -BitVec.getLsbD_eq_getElem]
  · simp [opField, nnnField, encodeAddr, getLsbD_op_nnn, h, show i - 12 < 4 by omega,
      show 12 + (i - 12) = i by omega, -BitVec.getLsbD_eq_getElem]

/-- NNN is X ++ NN. -/
theorem xField_append_nnField (w : Word) : xField w ++ nnField w = nnnField w := by
  refine BitVec.eq_of_getLsbD_eq fun i hi => ?_
  by_cases h : i < 8
  · simp [xField, nnField, nnnField, getLsbD_x_nn, h, show i < 12 by omega, -BitVec.getLsbD_eq_getElem]
  · simp [xField, nnField, nnnField, getLsbD_x_nn, h, hi, show i - 8 < 4 by omega,
      show 8 + (i - 8) = i by omega, -BitVec.getLsbD_eq_getElem]

/-- NN is Y ++ N. -/
theorem yField_append_nField (w : Word) : yField w ++ nField w = nnField w := by
  refine BitVec.eq_of_getLsbD_eq fun i hi => ?_
  by_cases h : i < 4
  · simp [yField, nField, nnField, getLsbD_y_n, h, show i < 8 by omega, -BitVec.getLsbD_eq_getElem]
  · simp [yField, nField, nnField, getLsbD_y_n, h, hi, show i - 4 < 4 by omega,
      show 4 + (i - 4) = i by omega, -BitVec.getLsbD_eq_getElem]

/-- A word is OP ++ X ++ NN. -/
theorem encodeRegByte_fields (w : Word) : encodeRegByte (opField w) (xField w) (nnField w) = w := by
  rw [encodeRegByte, xField_append_nnField]
  exact encodeAddr_fields w

/-- A word is OP ++ X ++ Y ++ N. -/
theorem encodeRegReg_fields (w : Word) : encodeRegReg (opField w) (xField w) (yField w) (nField w) = w := by
  rw [encodeRegReg, yField_append_nField]
  exact encodeRegByte_fields w

/-- The two bytes of a word make the word again (R56). -/
theorem wordOfBytes_bytes (w : Word) : wordOfBytes (w.extractLsb' 8 8) (w.extractLsb' 0 8) = w := by
  refine BitVec.eq_of_getLsbD_eq fun i hi => ?_
  by_cases h : i < 8
  · simp [wordOfBytes, getLsbD_hi_lo, h, -BitVec.getLsbD_eq_getElem]
  · simp [wordOfBytes, getLsbD_hi_lo, h, show i - 8 < 8 by omega, show 8 + (i - 8) = i by omega, -BitVec.getLsbD_eq_getElem]

/-! ### Masks -/

/-- The mask 0xF000 keeps OP (formats ADDR, REG_IMM, REG_REG_N). -/
theorem accepts_op (op : Nibble) (nnn : Addr) : Row.accepts ⟨op ++ 0#12, 0xF#4 ++ 0#12⟩ (encodeAddr op nnn) = true := by
  simp only [Row.accepts, encodeAddr, beq_iff_eq]
  refine BitVec.eq_of_getLsbD_eq fun i hi => ?_
  interval_cases i <;> simp [getLsbD_op_nnn, -BitVec.getLsbD_eq_getElem]

/-- The mask 0xF0FF keeps OP and NN (format REG_SUB). -/
theorem accepts_op_nn (op : Nibble) (x : RegId) (nn : Byte) :
    Row.accepts ⟨op ++ (0#4 ++ nn), 0xF#4 ++ (0#4 ++ 0xFF#8)⟩ (encodeRegByte op x nn) = true := by
  simp only [Row.accepts, encodeRegByte, beq_iff_eq]
  refine BitVec.eq_of_getLsbD_eq fun i hi => ?_
  interval_cases i <;> simp [getLsbD_op_nnn, getLsbD_x_nn, -BitVec.getLsbD_eq_getElem]

/-- The mask 0xF00F keeps OP and N (format REG_REG). -/
theorem accepts_op_n (op : Nibble) (x y : RegId) (n : Nibble) :
    Row.accepts ⟨op ++ (0#4 ++ (0#4 ++ n)), 0xF#4 ++ (0#4 ++ (0#4 ++ 0xF#4))⟩ (encodeRegReg op x y n) = true := by
  simp only [Row.accepts, encodeRegReg, beq_iff_eq]
  refine BitVec.eq_of_getLsbD_eq fun i hi => ?_
  interval_cases i <;> simp [getLsbD_op_nnn, getLsbD_x_nn, getLsbD_y_n, -BitVec.getLsbD_eq_getElem]

/-- Every instruction's row is in the table (R75). -/
theorem row_mem_opcodeTable (i : Instr) : i.row ∈ opcodeTable := by
  cases i <;> simp [opcodeTable, Instr.row]

/-- The host's question answers what the decoder answers for the word. -/
theorem decodeTableWord_eq (nbits w : Nat) : decodeTableWord nbits w = decodeWord (tableWord nbits w) := by
  simp only [decodeTableWord, bytesOfWord, decode, wordOfBytes_bytes]
  cases decodeWord (tableWord nbits w) <;> rfl

end Sys2Proof
end

