-- ==== Sys2Proof/Laws/Events.lean ====
section
/-! SUPPORT. What an event can do to the loading window, which stands beside the core. -/

namespace Sys2Proof.Machine

@[simp] theorem Session.after_loadWindow (e : Session) (w : Bool) (done : State → Response) (r : Result) :
    (e.after w done r).1.loadWindow = w := by cases r <;> rfl

/-- The window after one event: a reset opens it, a step closes it, every other event leaves it as it is (R213). -/
theorem applyEvent_loadWindow (ev : Event) (e : Session) :
    (applyEvent ev e).1.loadWindow =
      if ev = .reset then true else if ev = .step then false else e.loadWindow := by
  cases ev with
  | loadProgram bytes =>
    cases h : e.loadWindow <;> simp [applyEvent, h]
  | reset | step | tick | keyPress _ | keyRelease _ | takeRedraw => simp [applyEvent]

end Sys2Proof.Machine
end

