-- ==== Sys2Proof/Laws/Framebuffer.lean ====
section
/-! SUPPORT. Drawing: what the framebuffer and the collision are after a sprite (R151 to R153). -/

namespace Sys2Proof.Machine

@[simp] theorem Framebuffer.cell_clear (p : Pixel) : Framebuffer.clear.cell p = false := by
  simp [Framebuffer.cell, Framebuffer.clear]

/-- A toggle changes one cell. -/
theorem Framebuffer.cell_toggle (f : Framebuffer) (p q : Pixel) :
    (f.toggle p).cell q = if q = p then !f.cell p else f.cell q := by
  obtain ⟨px, py⟩ := p
  obtain ⟨qx, qy⟩ := q
  simp only [Framebuffer.cell, Framebuffer.toggle, Fin.getElem_fin, Vector.getElem_set, Prod.mk.injEq, Fin.ext_iff]
  by_cases hy : py.val = qy.val
  · by_cases hx : px.val = qx.val
    · simp [hx, hy]
    · simp [hx, hy, Ne.symm hx]
  · simp [hy, Ne.symm hy]

/-- Drawing distinct pixels: a cell is toggled iff it is among them, and the flag records an on cell among them. -/
theorem foldl_drawPixel (ps : List Pixel) (hnd : ps.Nodup) (f : Framebuffer) (c : Bool) (q : Pixel) :
    (ps.foldl drawPixel (f, c)).1.cell q = (f.cell q ^^ decide (q ∈ ps)) ∧
    (ps.foldl drawPixel (f, c)).2 = (c || ps.any f.cell) := by
  induction ps generalizing f c with
  | nil => simp
  | cons p ps ih =>
    obtain ⟨hp, hnd⟩ := List.nodup_cons.mp hnd
    obtain ⟨ih1, ih2⟩ := ih hnd (f.toggle p) (c || f.cell p)
    have hcell : ∀ q, q ∈ ps → (f.toggle p).cell q = f.cell q := fun q hq => by
      rw [Framebuffer.cell_toggle, if_neg (by rintro rfl; exact hp hq)]
    have hany : ps.any (f.toggle p).cell = ps.any f.cell := by
      rw [Bool.eq_iff_iff, List.any_eq_true, List.any_eq_true]
      exact exists_congr fun q => and_congr_right fun hq => by rw [hcell q hq]
    refine ⟨?_, ?_⟩
    · simp only [List.foldl_cons, drawPixel, ih1, Framebuffer.cell_toggle, List.mem_cons]
      by_cases h : q = p
      · subst h; simp [hp]
      · simp [h]
    · simp only [List.foldl_cons, drawPixel, ih2, hany, List.any_cons, Bool.or_assoc]

/-- The cells a sprite row falls on. -/
theorem mem_spriteRow {x0 y0 row : Nat} {b : Byte} {q : Pixel} :
    q ∈ spriteRow x0 y0 row b ↔ ∃ c, c < 8 ∧ b.getLsbD (7 - c) = true ∧ spritePixel x0 y0 row c = q := by
  simp [spriteRow, spriteBit, and_assoc]

/-- The cells a sprite falls on. -/
theorem mem_spritePixelsFrom {x0 y0 row : Nat} {bs : List Byte} {q : Pixel} :
    q ∈ spritePixelsFrom x0 y0 row bs ↔
      ∃ r b, bs[r]? = some b ∧ q ∈ spriteRow x0 y0 (row + r) b := by
  induction bs generalizing row with
  | nil => simp [spritePixelsFrom]
  | cons b bs ih =>
    simp only [spritePixelsFrom, List.mem_append, ih]
    constructor
    · rintro (h | ⟨r, b', h1, h2⟩)
      · exact ⟨0, b, rfl, h⟩
      · exact ⟨r + 1, b', by simpa using h1, by rwa [show row + (r + 1) = row + 1 + r by omega]⟩
    · rintro ⟨r, b', h1, h2⟩
      cases r with
      | zero => exact .inl (by simp_all)
      | succ r => exact .inr ⟨r, b', by simpa using h1, by rwa [show row + 1 + r = row + (r + 1) by omega]⟩

/-- A sprite's cells, as the spec states them (R152). -/
theorem mem_spritePixelsFrom_iff_covers {x0 y0 : Nat} {bs : List Byte} {q : Pixel} :
    q ∈ spritePixelsFrom x0 y0 0 bs ↔ Covers bs x0 y0 q.1.val q.2.val := by
  simp only [mem_spritePixelsFrom, mem_spriteRow, Covers, Nat.zero_add, spritePixel, Prod.ext_iff, Fin.ext_iff]
  constructor
  · rintro ⟨r, b, h1, c, h2, h3, h4, h5⟩
    exact ⟨r, c, b, h1, h2, h3, h4, h5⟩
  · rintro ⟨r, c, b, h1, h2, h3, h4, h5⟩
    exact ⟨r, b, h1, c, h2, h3, h4, h5⟩

theorem nodup_spriteRow (x0 y0 row : Nat) (b : Byte) : (spriteRow x0 y0 row b).Nodup := by
  refine List.Nodup.map_on ?_ (List.nodup_range.filter _)
  intro c hc d hd h
  simp only [List.mem_filter, List.mem_range] at hc hd
  simp only [spritePixel, Prod.ext_iff, Fin.ext_iff] at h
  omega

/-- No cell is touched twice by a sprite of at most 32 rows (R153). -/
theorem nodup_spritePixelsFrom (x0 y0 row : Nat) (bs : List Byte) (h : bs.length ≤ 32) :
    (spritePixelsFrom x0 y0 row bs).Nodup := by
  induction bs generalizing row with
  | nil => exact List.nodup_nil
  | cons b bs ih =>
    simp only [List.length_cons] at h
    refine List.nodup_append'.mpr ⟨nodup_spriteRow x0 y0 row b, ih (row + 1) (by omega), ?_⟩
    intro q h1 h2
    obtain ⟨r, b', hr, h2⟩ := mem_spritePixelsFrom.mp h2
    obtain ⟨c, -, -, rfl⟩ := mem_spriteRow.mp h1
    obtain ⟨d, -, -, hq⟩ := mem_spriteRow.mp h2
    have hlt : r < bs.length := by
      by_contra hge
      rw [List.getElem?_eq_none (by omega)] at hr
      cases hr
    simp only [spritePixel, Prod.ext_iff, Fin.ext_iff] at hq
    omega

/-- Drawing a sprite of at most 32 rows: a cell is toggled iff a 1 bit of the sprite covers it (R152, R153). -/
theorem drawSprite_cell (f : Framebuffer) (x0 y0 : Nat) (bs : List Byte) (h : bs.length ≤ 32) (q : Pixel) :
    ((drawSprite f x0 y0 bs).1.cell q = true) ↔ ¬ (f.cell q = true ↔ Covers bs x0 y0 q.1.val q.2.val) := by
  rw [drawSprite, (foldl_drawPixel _ (nodup_spritePixelsFrom x0 y0 0 bs h) f false q).1,
    ← mem_spritePixelsFrom_iff_covers]
  by_cases hq : q ∈ spritePixelsFrom x0 y0 0 bs <;> cases f.cell q <;> simp [hq]

/-- The collision: some cell that was on is covered by a 1 bit of the sprite (R153). -/
theorem drawSprite_collision (f : Framebuffer) (x0 y0 : Nat) (bs : List Byte) (h : bs.length ≤ 32) :
    ((drawSprite f x0 y0 bs).2 = true) ↔
      ∃ q : Pixel, f.cell q = true ∧ Covers bs x0 y0 q.1.val q.2.val := by
  rw [drawSprite, (foldl_drawPixel _ (nodup_spritePixelsFrom x0 y0 0 bs h) f false ⟨0, 0⟩).2]
  simp only [Bool.false_or, List.any_eq_true, mem_spritePixelsFrom_iff_covers]
  exact exists_congr fun q => and_comm

end Sys2Proof.Machine
end

