-- ==== Sys2Proof/Laws/State.lean ====
section
/-! SUPPORT. The small lemmas of the state's updates: for each update and each field, what the field holds after it; and
for each update, what a register or a key reads as after it.  All hold by unfolding once, here. -/

namespace Sys2Proof.Machine.State

variable (s : State)

/-! ### setReg -/

@[simp] theorem setReg_v (x : RegId) (b : Byte) : (s.setReg x b).v = s.v.set x.toNat b := rfl
@[simp] theorem setReg_i (x : RegId) (b : Byte) : (s.setReg x b).i = s.i := rfl
@[simp] theorem setReg_pc (x : RegId) (b : Byte) : (s.setReg x b).pc = s.pc := rfl
@[simp] theorem setReg_stack (x : RegId) (b : Byte) : (s.setReg x b).stack = s.stack := rfl
@[simp] theorem setReg_sp (x : RegId) (b : Byte) : (s.setReg x b).sp = s.sp := rfl
@[simp] theorem setReg_dt (x : RegId) (b : Byte) : (s.setReg x b).dt = s.dt := rfl
@[simp] theorem setReg_st (x : RegId) (b : Byte) : (s.setReg x b).st = s.st := rfl
@[simp] theorem setReg_keys (x : RegId) (b : Byte) : (s.setReg x b).keys = s.keys := rfl
@[simp] theorem setReg_fb (x : RegId) (b : Byte) : (s.setReg x b).fb = s.fb := rfl
@[simp] theorem setReg_redraw (x : RegId) (b : Byte) : (s.setReg x b).redraw = s.redraw := rfl
@[simp] theorem setReg_mode (x : RegId) (b : Byte) : (s.setReg x b).mode = s.mode := rfl
@[simp] theorem setReg_wreg (x : RegId) (b : Byte) : (s.setReg x b).wreg = s.wreg := rfl
@[simp] theorem setReg_mem (x : RegId) (b : Byte) : (s.setReg x b).mem = s.mem := rfl
@[simp] theorem setReg_draws (x : RegId) (b : Byte) : (s.setReg x b).draws = s.draws := rfl
@[simp] theorem setReg_isDown (x : RegId) (b : Byte) (k : Byte) : (s.setReg x b).isDown k = s.isDown k := rfl

/-! ### setRegs -/

@[simp] theorem setRegs_v (bs : List Byte) : (s.setRegs bs).v = Vector.ofFn fun k => (bs[k.val]?).getD s.v[k] := rfl
@[simp] theorem setRegs_i (bs : List Byte) : (s.setRegs bs).i = s.i := rfl
@[simp] theorem setRegs_pc (bs : List Byte) : (s.setRegs bs).pc = s.pc := rfl
@[simp] theorem setRegs_stack (bs : List Byte) : (s.setRegs bs).stack = s.stack := rfl
@[simp] theorem setRegs_sp (bs : List Byte) : (s.setRegs bs).sp = s.sp := rfl
@[simp] theorem setRegs_dt (bs : List Byte) : (s.setRegs bs).dt = s.dt := rfl
@[simp] theorem setRegs_st (bs : List Byte) : (s.setRegs bs).st = s.st := rfl
@[simp] theorem setRegs_keys (bs : List Byte) : (s.setRegs bs).keys = s.keys := rfl
@[simp] theorem setRegs_fb (bs : List Byte) : (s.setRegs bs).fb = s.fb := rfl
@[simp] theorem setRegs_redraw (bs : List Byte) : (s.setRegs bs).redraw = s.redraw := rfl
@[simp] theorem setRegs_mode (bs : List Byte) : (s.setRegs bs).mode = s.mode := rfl
@[simp] theorem setRegs_wreg (bs : List Byte) : (s.setRegs bs).wreg = s.wreg := rfl
@[simp] theorem setRegs_mem (bs : List Byte) : (s.setRegs bs).mem = s.mem := rfl
@[simp] theorem setRegs_draws (bs : List Byte) : (s.setRegs bs).draws = s.draws := rfl
@[simp] theorem setRegs_isDown (bs : List Byte) (k : Byte) : (s.setRegs bs).isDown k = s.isDown k := rfl

/-! ### setI -/

@[simp] theorem setI_v (w : Word) : (s.setI w).v = s.v := rfl
@[simp] theorem setI_i (w : Word) : (s.setI w).i = w := rfl
@[simp] theorem setI_pc (w : Word) : (s.setI w).pc = s.pc := rfl
@[simp] theorem setI_stack (w : Word) : (s.setI w).stack = s.stack := rfl
@[simp] theorem setI_sp (w : Word) : (s.setI w).sp = s.sp := rfl
@[simp] theorem setI_dt (w : Word) : (s.setI w).dt = s.dt := rfl
@[simp] theorem setI_st (w : Word) : (s.setI w).st = s.st := rfl
@[simp] theorem setI_keys (w : Word) : (s.setI w).keys = s.keys := rfl
@[simp] theorem setI_fb (w : Word) : (s.setI w).fb = s.fb := rfl
@[simp] theorem setI_redraw (w : Word) : (s.setI w).redraw = s.redraw := rfl
@[simp] theorem setI_mode (w : Word) : (s.setI w).mode = s.mode := rfl
@[simp] theorem setI_wreg (w : Word) : (s.setI w).wreg = s.wreg := rfl
@[simp] theorem setI_mem (w : Word) : (s.setI w).mem = s.mem := rfl
@[simp] theorem setI_draws (w : Word) : (s.setI w).draws = s.draws := rfl
@[simp] theorem setI_reg (w : Word) (r : RegId) : (s.setI w).reg r = s.reg r := rfl
@[simp] theorem setI_isDown (w : Word) (k : Byte) : (s.setI w).isDown k = s.isDown k := rfl

/-! ### setPc -/

@[simp] theorem setPc_v (w : Word) : (s.setPc w).v = s.v := rfl
@[simp] theorem setPc_i (w : Word) : (s.setPc w).i = s.i := rfl
@[simp] theorem setPc_pc (w : Word) : (s.setPc w).pc = w := rfl
@[simp] theorem setPc_stack (w : Word) : (s.setPc w).stack = s.stack := rfl
@[simp] theorem setPc_sp (w : Word) : (s.setPc w).sp = s.sp := rfl
@[simp] theorem setPc_dt (w : Word) : (s.setPc w).dt = s.dt := rfl
@[simp] theorem setPc_st (w : Word) : (s.setPc w).st = s.st := rfl
@[simp] theorem setPc_keys (w : Word) : (s.setPc w).keys = s.keys := rfl
@[simp] theorem setPc_fb (w : Word) : (s.setPc w).fb = s.fb := rfl
@[simp] theorem setPc_redraw (w : Word) : (s.setPc w).redraw = s.redraw := rfl
@[simp] theorem setPc_mode (w : Word) : (s.setPc w).mode = s.mode := rfl
@[simp] theorem setPc_wreg (w : Word) : (s.setPc w).wreg = s.wreg := rfl
@[simp] theorem setPc_mem (w : Word) : (s.setPc w).mem = s.mem := rfl
@[simp] theorem setPc_draws (w : Word) : (s.setPc w).draws = s.draws := rfl
@[simp] theorem setPc_reg (w : Word) (r : RegId) : (s.setPc w).reg r = s.reg r := rfl
@[simp] theorem setPc_isDown (w : Word) (k : Byte) : (s.setPc w).isDown k = s.isDown k := rfl

/-! ### setDt -/

@[simp] theorem setDt_v (b : Byte) : (s.setDt b).v = s.v := rfl
@[simp] theorem setDt_i (b : Byte) : (s.setDt b).i = s.i := rfl
@[simp] theorem setDt_pc (b : Byte) : (s.setDt b).pc = s.pc := rfl
@[simp] theorem setDt_stack (b : Byte) : (s.setDt b).stack = s.stack := rfl
@[simp] theorem setDt_sp (b : Byte) : (s.setDt b).sp = s.sp := rfl
@[simp] theorem setDt_dt (b : Byte) : (s.setDt b).dt = b := rfl
@[simp] theorem setDt_st (b : Byte) : (s.setDt b).st = s.st := rfl
@[simp] theorem setDt_keys (b : Byte) : (s.setDt b).keys = s.keys := rfl
@[simp] theorem setDt_fb (b : Byte) : (s.setDt b).fb = s.fb := rfl
@[simp] theorem setDt_redraw (b : Byte) : (s.setDt b).redraw = s.redraw := rfl
@[simp] theorem setDt_mode (b : Byte) : (s.setDt b).mode = s.mode := rfl
@[simp] theorem setDt_wreg (b : Byte) : (s.setDt b).wreg = s.wreg := rfl
@[simp] theorem setDt_mem (b : Byte) : (s.setDt b).mem = s.mem := rfl
@[simp] theorem setDt_draws (b : Byte) : (s.setDt b).draws = s.draws := rfl
@[simp] theorem setDt_reg (b : Byte) (r : RegId) : (s.setDt b).reg r = s.reg r := rfl
@[simp] theorem setDt_isDown (b : Byte) (k : Byte) : (s.setDt b).isDown k = s.isDown k := rfl

/-! ### setSt -/

@[simp] theorem setSt_v (b : Byte) : (s.setSt b).v = s.v := rfl
@[simp] theorem setSt_i (b : Byte) : (s.setSt b).i = s.i := rfl
@[simp] theorem setSt_pc (b : Byte) : (s.setSt b).pc = s.pc := rfl
@[simp] theorem setSt_stack (b : Byte) : (s.setSt b).stack = s.stack := rfl
@[simp] theorem setSt_sp (b : Byte) : (s.setSt b).sp = s.sp := rfl
@[simp] theorem setSt_dt (b : Byte) : (s.setSt b).dt = s.dt := rfl
@[simp] theorem setSt_st (b : Byte) : (s.setSt b).st = b := rfl
@[simp] theorem setSt_keys (b : Byte) : (s.setSt b).keys = s.keys := rfl
@[simp] theorem setSt_fb (b : Byte) : (s.setSt b).fb = s.fb := rfl
@[simp] theorem setSt_redraw (b : Byte) : (s.setSt b).redraw = s.redraw := rfl
@[simp] theorem setSt_mode (b : Byte) : (s.setSt b).mode = s.mode := rfl
@[simp] theorem setSt_wreg (b : Byte) : (s.setSt b).wreg = s.wreg := rfl
@[simp] theorem setSt_mem (b : Byte) : (s.setSt b).mem = s.mem := rfl
@[simp] theorem setSt_draws (b : Byte) : (s.setSt b).draws = s.draws := rfl
@[simp] theorem setSt_reg (b : Byte) (r : RegId) : (s.setSt b).reg r = s.reg r := rfl
@[simp] theorem setSt_isDown (b : Byte) (k : Byte) : (s.setSt b).isDown k = s.isDown k := rfl

/-! ### setRedraw -/

@[simp] theorem setRedraw_v (b : Bool) : (s.setRedraw b).v = s.v := rfl
@[simp] theorem setRedraw_i (b : Bool) : (s.setRedraw b).i = s.i := rfl
@[simp] theorem setRedraw_pc (b : Bool) : (s.setRedraw b).pc = s.pc := rfl
@[simp] theorem setRedraw_stack (b : Bool) : (s.setRedraw b).stack = s.stack := rfl
@[simp] theorem setRedraw_sp (b : Bool) : (s.setRedraw b).sp = s.sp := rfl
@[simp] theorem setRedraw_dt (b : Bool) : (s.setRedraw b).dt = s.dt := rfl
@[simp] theorem setRedraw_st (b : Bool) : (s.setRedraw b).st = s.st := rfl
@[simp] theorem setRedraw_keys (b : Bool) : (s.setRedraw b).keys = s.keys := rfl
@[simp] theorem setRedraw_fb (b : Bool) : (s.setRedraw b).fb = s.fb := rfl
@[simp] theorem setRedraw_redraw (b : Bool) : (s.setRedraw b).redraw = b := rfl
@[simp] theorem setRedraw_mode (b : Bool) : (s.setRedraw b).mode = s.mode := rfl
@[simp] theorem setRedraw_wreg (b : Bool) : (s.setRedraw b).wreg = s.wreg := rfl
@[simp] theorem setRedraw_mem (b : Bool) : (s.setRedraw b).mem = s.mem := rfl
@[simp] theorem setRedraw_draws (b : Bool) : (s.setRedraw b).draws = s.draws := rfl
@[simp] theorem setRedraw_reg (b : Bool) (r : RegId) : (s.setRedraw b).reg r = s.reg r := rfl
@[simp] theorem setRedraw_isDown (b : Bool) (k : Byte) : (s.setRedraw b).isDown k = s.isDown k := rfl

/-! ### setMode -/

@[simp] theorem setMode_v (m : Mode) : (s.setMode m).v = s.v := rfl
@[simp] theorem setMode_i (m : Mode) : (s.setMode m).i = s.i := rfl
@[simp] theorem setMode_pc (m : Mode) : (s.setMode m).pc = s.pc := rfl
@[simp] theorem setMode_stack (m : Mode) : (s.setMode m).stack = s.stack := rfl
@[simp] theorem setMode_sp (m : Mode) : (s.setMode m).sp = s.sp := rfl
@[simp] theorem setMode_dt (m : Mode) : (s.setMode m).dt = s.dt := rfl
@[simp] theorem setMode_st (m : Mode) : (s.setMode m).st = s.st := rfl
@[simp] theorem setMode_keys (m : Mode) : (s.setMode m).keys = s.keys := rfl
@[simp] theorem setMode_fb (m : Mode) : (s.setMode m).fb = s.fb := rfl
@[simp] theorem setMode_redraw (m : Mode) : (s.setMode m).redraw = s.redraw := rfl
@[simp] theorem setMode_mode (m : Mode) : (s.setMode m).mode = m := rfl
@[simp] theorem setMode_wreg (m : Mode) : (s.setMode m).wreg = s.wreg := rfl
@[simp] theorem setMode_mem (m : Mode) : (s.setMode m).mem = s.mem := rfl
@[simp] theorem setMode_draws (m : Mode) : (s.setMode m).draws = s.draws := rfl
@[simp] theorem setMode_reg (m : Mode) (r : RegId) : (s.setMode m).reg r = s.reg r := rfl
@[simp] theorem setMode_isDown (m : Mode) (k : Byte) : (s.setMode m).isDown k = s.isDown k := rfl

/-! ### setWreg -/

@[simp] theorem setWreg_v (x : RegId) : (s.setWreg x).v = s.v := rfl
@[simp] theorem setWreg_i (x : RegId) : (s.setWreg x).i = s.i := rfl
@[simp] theorem setWreg_pc (x : RegId) : (s.setWreg x).pc = s.pc := rfl
@[simp] theorem setWreg_stack (x : RegId) : (s.setWreg x).stack = s.stack := rfl
@[simp] theorem setWreg_sp (x : RegId) : (s.setWreg x).sp = s.sp := rfl
@[simp] theorem setWreg_dt (x : RegId) : (s.setWreg x).dt = s.dt := rfl
@[simp] theorem setWreg_st (x : RegId) : (s.setWreg x).st = s.st := rfl
@[simp] theorem setWreg_keys (x : RegId) : (s.setWreg x).keys = s.keys := rfl
@[simp] theorem setWreg_fb (x : RegId) : (s.setWreg x).fb = s.fb := rfl
@[simp] theorem setWreg_redraw (x : RegId) : (s.setWreg x).redraw = s.redraw := rfl
@[simp] theorem setWreg_mode (x : RegId) : (s.setWreg x).mode = s.mode := rfl
@[simp] theorem setWreg_wreg (x : RegId) : (s.setWreg x).wreg = x := rfl
@[simp] theorem setWreg_mem (x : RegId) : (s.setWreg x).mem = s.mem := rfl
@[simp] theorem setWreg_draws (x : RegId) : (s.setWreg x).draws = s.draws := rfl
@[simp] theorem setWreg_reg (x : RegId) (r : RegId) : (s.setWreg x).reg r = s.reg r := rfl
@[simp] theorem setWreg_isDown (x : RegId) (k : Byte) : (s.setWreg x).isDown k = s.isDown k := rfl

/-! ### setFb -/

@[simp] theorem setFb_v (f : Framebuffer) : (s.setFb f).v = s.v := rfl
@[simp] theorem setFb_i (f : Framebuffer) : (s.setFb f).i = s.i := rfl
@[simp] theorem setFb_pc (f : Framebuffer) : (s.setFb f).pc = s.pc := rfl
@[simp] theorem setFb_stack (f : Framebuffer) : (s.setFb f).stack = s.stack := rfl
@[simp] theorem setFb_sp (f : Framebuffer) : (s.setFb f).sp = s.sp := rfl
@[simp] theorem setFb_dt (f : Framebuffer) : (s.setFb f).dt = s.dt := rfl
@[simp] theorem setFb_st (f : Framebuffer) : (s.setFb f).st = s.st := rfl
@[simp] theorem setFb_keys (f : Framebuffer) : (s.setFb f).keys = s.keys := rfl
@[simp] theorem setFb_fb (f : Framebuffer) : (s.setFb f).fb = f := rfl
@[simp] theorem setFb_redraw (f : Framebuffer) : (s.setFb f).redraw = s.redraw := rfl
@[simp] theorem setFb_mode (f : Framebuffer) : (s.setFb f).mode = s.mode := rfl
@[simp] theorem setFb_wreg (f : Framebuffer) : (s.setFb f).wreg = s.wreg := rfl
@[simp] theorem setFb_mem (f : Framebuffer) : (s.setFb f).mem = s.mem := rfl
@[simp] theorem setFb_draws (f : Framebuffer) : (s.setFb f).draws = s.draws := rfl
@[simp] theorem setFb_reg (f : Framebuffer) (r : RegId) : (s.setFb f).reg r = s.reg r := rfl
@[simp] theorem setFb_isDown (f : Framebuffer) (k : Byte) : (s.setFb f).isDown k = s.isDown k := rfl

/-! ### setMem -/

@[simp] theorem setMem_v (m : Memory) : (s.setMem m).v = s.v := rfl
@[simp] theorem setMem_i (m : Memory) : (s.setMem m).i = s.i := rfl
@[simp] theorem setMem_pc (m : Memory) : (s.setMem m).pc = s.pc := rfl
@[simp] theorem setMem_stack (m : Memory) : (s.setMem m).stack = s.stack := rfl
@[simp] theorem setMem_sp (m : Memory) : (s.setMem m).sp = s.sp := rfl
@[simp] theorem setMem_dt (m : Memory) : (s.setMem m).dt = s.dt := rfl
@[simp] theorem setMem_st (m : Memory) : (s.setMem m).st = s.st := rfl
@[simp] theorem setMem_keys (m : Memory) : (s.setMem m).keys = s.keys := rfl
@[simp] theorem setMem_fb (m : Memory) : (s.setMem m).fb = s.fb := rfl
@[simp] theorem setMem_redraw (m : Memory) : (s.setMem m).redraw = s.redraw := rfl
@[simp] theorem setMem_mode (m : Memory) : (s.setMem m).mode = s.mode := rfl
@[simp] theorem setMem_wreg (m : Memory) : (s.setMem m).wreg = s.wreg := rfl
@[simp] theorem setMem_mem (m : Memory) : (s.setMem m).mem = m := rfl
@[simp] theorem setMem_draws (m : Memory) : (s.setMem m).draws = s.draws := rfl
@[simp] theorem setMem_reg (m : Memory) (r : RegId) : (s.setMem m).reg r = s.reg r := rfl
@[simp] theorem setMem_isDown (m : Memory) (k : Byte) : (s.setMem m).isDown k = s.isDown k := rfl

/-! ### countDraw -/

@[simp] theorem countDraw_v : s.countDraw.v = s.v := rfl
@[simp] theorem countDraw_i : s.countDraw.i = s.i := rfl
@[simp] theorem countDraw_pc : s.countDraw.pc = s.pc := rfl
@[simp] theorem countDraw_stack : s.countDraw.stack = s.stack := rfl
@[simp] theorem countDraw_sp : s.countDraw.sp = s.sp := rfl
@[simp] theorem countDraw_dt : s.countDraw.dt = s.dt := rfl
@[simp] theorem countDraw_st : s.countDraw.st = s.st := rfl
@[simp] theorem countDraw_keys : s.countDraw.keys = s.keys := rfl
@[simp] theorem countDraw_fb : s.countDraw.fb = s.fb := rfl
@[simp] theorem countDraw_redraw : s.countDraw.redraw = s.redraw := rfl
@[simp] theorem countDraw_mode : s.countDraw.mode = s.mode := rfl
@[simp] theorem countDraw_wreg : s.countDraw.wreg = s.wreg := rfl
@[simp] theorem countDraw_mem : s.countDraw.mem = s.mem := rfl
@[simp] theorem countDraw_draws : s.countDraw.draws = s.draws + 1 := rfl
@[simp] theorem countDraw_reg (r : RegId) : s.countDraw.reg r = s.reg r := rfl
@[simp] theorem countDraw_isDown (k : Byte) : s.countDraw.isDown k = s.isDown k := rfl

/-! ### advance -/

@[simp] theorem advance_v : s.advance.v = s.v := rfl
@[simp] theorem advance_i : s.advance.i = s.i := rfl
@[simp] theorem advance_pc : s.advance.pc = s.pc + 2#16 := rfl
@[simp] theorem advance_stack : s.advance.stack = s.stack := rfl
@[simp] theorem advance_sp : s.advance.sp = s.sp := rfl
@[simp] theorem advance_dt : s.advance.dt = s.dt := rfl
@[simp] theorem advance_st : s.advance.st = s.st := rfl
@[simp] theorem advance_keys : s.advance.keys = s.keys := rfl
@[simp] theorem advance_fb : s.advance.fb = s.fb := rfl
@[simp] theorem advance_redraw : s.advance.redraw = s.redraw := rfl
@[simp] theorem advance_mode : s.advance.mode = s.mode := rfl
@[simp] theorem advance_wreg : s.advance.wreg = s.wreg := rfl
@[simp] theorem advance_mem : s.advance.mem = s.mem := rfl
@[simp] theorem advance_draws : s.advance.draws = s.draws := rfl
@[simp] theorem advance_reg (r : RegId) : s.advance.reg r = s.reg r := rfl
@[simp] theorem advance_isDown (k : Byte) : s.advance.isDown k = s.isDown k := rfl

/-! ### skipIf -/

@[simp] theorem skipIf_v (c : Bool) : (s.skipIf c).v = s.v := rfl
@[simp] theorem skipIf_i (c : Bool) : (s.skipIf c).i = s.i := rfl
@[simp] theorem skipIf_pc (c : Bool) : (s.skipIf c).pc = s.pc + if c then 4#16 else 2#16 := rfl
@[simp] theorem skipIf_stack (c : Bool) : (s.skipIf c).stack = s.stack := rfl
@[simp] theorem skipIf_sp (c : Bool) : (s.skipIf c).sp = s.sp := rfl
@[simp] theorem skipIf_dt (c : Bool) : (s.skipIf c).dt = s.dt := rfl
@[simp] theorem skipIf_st (c : Bool) : (s.skipIf c).st = s.st := rfl
@[simp] theorem skipIf_keys (c : Bool) : (s.skipIf c).keys = s.keys := rfl
@[simp] theorem skipIf_fb (c : Bool) : (s.skipIf c).fb = s.fb := rfl
@[simp] theorem skipIf_redraw (c : Bool) : (s.skipIf c).redraw = s.redraw := rfl
@[simp] theorem skipIf_mode (c : Bool) : (s.skipIf c).mode = s.mode := rfl
@[simp] theorem skipIf_wreg (c : Bool) : (s.skipIf c).wreg = s.wreg := rfl
@[simp] theorem skipIf_mem (c : Bool) : (s.skipIf c).mem = s.mem := rfl
@[simp] theorem skipIf_draws (c : Bool) : (s.skipIf c).draws = s.draws := rfl
@[simp] theorem skipIf_reg (c : Bool) (r : RegId) : (s.skipIf c).reg r = s.reg r := rfl
@[simp] theorem skipIf_isDown (c : Bool) (k : Byte) : (s.skipIf c).isDown k = s.isDown k := rfl

/-! ### setKey -/

@[simp] theorem setKey_v (k : Fin 16) (d : Bool) : (s.setKey k d).v = s.v := rfl
@[simp] theorem setKey_i (k : Fin 16) (d : Bool) : (s.setKey k d).i = s.i := rfl
@[simp] theorem setKey_pc (k : Fin 16) (d : Bool) : (s.setKey k d).pc = s.pc := rfl
@[simp] theorem setKey_stack (k : Fin 16) (d : Bool) : (s.setKey k d).stack = s.stack := rfl
@[simp] theorem setKey_sp (k : Fin 16) (d : Bool) : (s.setKey k d).sp = s.sp := rfl
@[simp] theorem setKey_dt (k : Fin 16) (d : Bool) : (s.setKey k d).dt = s.dt := rfl
@[simp] theorem setKey_st (k : Fin 16) (d : Bool) : (s.setKey k d).st = s.st := rfl
@[simp] theorem setKey_keys (k : Fin 16) (d : Bool) : (s.setKey k d).keys = s.keys.set k d := rfl
@[simp] theorem setKey_fb (k : Fin 16) (d : Bool) : (s.setKey k d).fb = s.fb := rfl
@[simp] theorem setKey_redraw (k : Fin 16) (d : Bool) : (s.setKey k d).redraw = s.redraw := rfl
@[simp] theorem setKey_mode (k : Fin 16) (d : Bool) : (s.setKey k d).mode = s.mode := rfl
@[simp] theorem setKey_wreg (k : Fin 16) (d : Bool) : (s.setKey k d).wreg = s.wreg := rfl
@[simp] theorem setKey_mem (k : Fin 16) (d : Bool) : (s.setKey k d).mem = s.mem := rfl
@[simp] theorem setKey_draws (k : Fin 16) (d : Bool) : (s.setKey k d).draws = s.draws := rfl
@[simp] theorem setKey_reg (k : Fin 16) (d : Bool) (r : RegId) : (s.setKey k d).reg r = s.reg r := rfl

end Sys2Proof.Machine.State
end

