-- ==== Sys2Proof/Laws/Memory.lean ====
section
/-! SUPPORT. Memory: a read after a write, and that every memory operation keeps the canonical form. -/

namespace Sys2Proof.Machine

theorem Memory.read_filter_self (m : Memory) (a : Nat) :
    Memory.read (m.filter fun c => c.1 != a) a = Memory.unlisted a := by
  induction m with
  | nil => rfl
  | cons c rest ih =>
    obtain ⟨a', b'⟩ := c
    by_cases h : a' = a
    · simpa [h] using ih
    · simpa [h, Memory.read, Ne.symm h] using ih

theorem Memory.read_filter_of_ne (m : Memory) {a a' : Nat} (h : a' ≠ a) :
    Memory.read (m.filter fun c => c.1 != a) a' = m.read a' := by
  induction m with
  | nil => rfl
  | cons c rest ih =>
    obtain ⟨k, b⟩ := c
    by_cases hk : k = a
    · simpa [hk, Memory.read, h] using ih
    · by_cases h' : a' = k <;> simp [hk, Memory.read, h', ih]

theorem Memory.read_insertEntry (m : Memory) (a a' : Nat) (b : Byte) :
    (m.insertEntry a b).read a' = if a' = a then b else m.read a' := by
  induction m with
  | nil => simp [Memory.insertEntry, Memory.read]
  | cons c rest ih =>
    obtain ⟨k, bk⟩ := c
    rw [Memory.insertEntry]
    split
    · simp [Memory.read]
    · split
      · rename_i _ hk
        subst hk
        simp only [Memory.read]
        split <;> simp_all
      · rename_i _ hk
        by_cases h : a' = k
        · simp [Memory.read, h, Ne.symm hk]
        · simp [Memory.read, h, ih]

/-- A read after a write: the byte written at its address, and every other address as before. -/
theorem Memory.read_write (m : Memory) (a a' : Nat) (b : Byte) :
    (m.write a b).read a' = if a' = a then b else m.read a' := by
  unfold Memory.write
  split
  · rename_i hb
    by_cases h : a' = a
    · simp [h, hb, Memory.read_filter_self]
    · simp [h, Memory.read_filter_of_ne]
  · exact Memory.read_insertEntry m a a' b

/-- The bytes read in order. -/
theorem Memory.readFrom_getElem? (m : Memory) (a n k : Nat) :
    (m.readFrom a n)[k]? = if k < n then some (m.read (a + k)) else none := by
  induction n generalizing a k with
  | zero => simp [Memory.readFrom]
  | succ n ih =>
    cases k with
    | zero => simp [Memory.readFrom]
    | succ k => simp [Memory.readFrom, ih, Nat.add_assoc, Nat.add_comm 1 k]

@[simp] theorem Memory.readFrom_length (m : Memory) (a n : Nat) : (m.readFrom a n).length = n := by
  induction n generalizing a with
  | zero => rfl
  | succ n ih => simp [Memory.readFrom, ih]

/-- A read after a store of several bytes. -/
theorem Memory.read_writeFrom (m : Memory) (a a' : Nat) (bs : List Byte) :
    (m.writeFrom a bs).read a' = if a ≤ a' then (bs[a' - a]?).getD (m.read a') else m.read a' := by
  induction bs generalizing m a with
  | nil => simp [Memory.writeFrom]
  | cons b bs ih =>
    rw [Memory.writeFrom, ih, Memory.read_write]
    by_cases h : a' = a
    · subst h
      simp
    · by_cases hle : a ≤ a'
      · have h1 : a + 1 ≤ a' := by omega
        have h2 : a' - a = (a' - (a + 1)) + 1 := by omega
        simp [h, h1, hle, h2]
      · simp [h, hle, show ¬ a + 1 ≤ a' by omega]

/-- The byte stored at offset k. -/
theorem Memory.read_writeFrom_at (m : Memory) (a k : Nat) (bs : List Byte) (b : Byte) (h : bs[k]? = some b) :
    (m.writeFrom a bs).read (a + k) = b := by
  simp [Memory.read_writeFrom, h]

/-- Every address outside the stored bytes reads as before. -/
theorem Memory.read_writeFrom_outside (m : Memory) (a a' : Nat) (bs : List Byte)
    (h : a' < a ∨ a + bs.length ≤ a') : (m.writeFrom a bs).read a' = m.read a' := by
  rw [Memory.read_writeFrom]
  split
  · rw [List.getElem?_eq_none (by omega)]
    rfl
  · rfl

/-! ### The canonical form -/

theorem Memory.wfFrom_mono {lo lo' : Nat} {m : Memory} (hle : lo' ≤ lo) (h : Memory.wfFrom lo m = true) :
    Memory.wfFrom lo' m = true := by
  cases m with
  | nil => rfl
  | cons c rest =>
    obtain ⟨a, b⟩ := c
    simp only [Memory.wfFrom, Bool.and_eq_true, decide_eq_true_eq] at h ⊢
    exact ⟨⟨⟨by omega, h.1.1.2⟩, h.1.2⟩, h.2⟩

theorem Memory.wfFrom_filter {lo : Nat} {m : Memory} (a : Nat) (h : Memory.wfFrom lo m = true) :
    Memory.wfFrom lo (m.filter fun c => c.1 != a) = true := by
  induction m generalizing lo with
  | nil => rfl
  | cons c rest ih =>
    obtain ⟨k, b⟩ := c
    simp only [Memory.wfFrom, Bool.and_eq_true, decide_eq_true_eq] at h
    by_cases hk : k = a
    · simpa [hk] using ih (Memory.wfFrom_mono (by omega) h.2)
    · have hk' : (k != a) = true := by simpa using hk
      simp only [List.filter_cons, hk', ↓reduceIte, Memory.wfFrom, Bool.and_eq_true, decide_eq_true_eq]
      exact ⟨h.1, ih h.2⟩

theorem Memory.wfFrom_insertEntry {lo a : Nat} {b : Byte} {m : Memory} (hlo : lo ≤ a) (ha : a < Config.memSize)
    (hb : b ≠ Memory.unlisted a) (h : Memory.wfFrom lo m = true) : Memory.wfFrom lo (m.insertEntry a b) = true := by
  induction m generalizing lo with
  | nil => simp [Memory.insertEntry, Memory.wfFrom, hlo, ha, hb]
  | cons c rest ih =>
    obtain ⟨k, bk⟩ := c
    have h' := h
    simp only [Memory.wfFrom, Bool.and_eq_true, decide_eq_true_eq] at h
    rw [Memory.insertEntry]
    split
    · simp only [Memory.wfFrom, Bool.and_eq_true, decide_eq_true_eq, bne_iff_ne]
      exact ⟨⟨⟨hlo, ha⟩, hb⟩, ⟨⟨by omega, h.1.1.2⟩, by simpa using h.1.2⟩, h.2⟩
    · split
      · rename_i _ hk
        subst hk
        simp only [Memory.wfFrom, Bool.and_eq_true, decide_eq_true_eq, bne_iff_ne]
        exact ⟨⟨⟨hlo, ha⟩, hb⟩, h.2⟩
      · simp only [Memory.wfFrom, Bool.and_eq_true, decide_eq_true_eq]
        exact ⟨h.1, ih (by omega) h.2⟩

/-- A write inside memory keeps the canonical form. -/
theorem Memory.wf_write {m : Memory} {a : Nat} (b : Byte) (ha : a < Config.memSize) (h : m.wf = true) :
    (m.write a b).wf = true := by
  unfold Memory.write
  split
  · exact Memory.wfFrom_filter a h
  · rename_i hb
    exact Memory.wfFrom_insertEntry (Nat.zero_le a) ha hb h

/-- A store inside memory keeps the canonical form. -/
theorem Memory.wf_writeFrom {m : Memory} {a : Nat} {bs : List Byte} (ha : a + bs.length ≤ Config.memSize)
    (h : m.wf = true) : (m.writeFrom a bs).wf = true := by
  induction bs generalizing m a with
  | nil => exact h
  | cons b bs ih =>
    simp only [List.length_cons] at ha
    exact ih (by omega) (Memory.wf_write b (by omega) h)

/-- The checked store: when it answers, the access was in bounds and the memory is the one written; it answers exactly
when the access is in bounds (R54, R59). -/
theorem Memory.writeBytes?_eq_some {m m' : Memory} {a : Nat} {bs : List Byte} :
    m.writeBytes? a bs = some m' ↔ inBounds a bs.length = true ∧ m' = m.writeFrom a bs := by
  by_cases hb : inBounds a bs.length = true
  · simp only [Memory.writeBytes?, hb, ↓reduceIte, Option.some.injEq, true_and]
    exact eq_comm
  · simp [Memory.writeBytes?, hb]

theorem Memory.writeBytes?_wf {m m' : Memory} {a : Nat} {bs : List Byte} (hm : m.wf = true)
    (h : m.writeBytes? a bs = some m') : m'.wf = true := by
  obtain ⟨hb, rfl⟩ := Memory.writeBytes?_eq_some.mp h
  simp only [inBounds, decide_eq_true_eq] at hb
  rcases hb with hb | hb
  · rw [List.length_eq_zero_iff.mp hb]
    exact hm
  · exact Memory.wf_writeFrom hb hm

/-- The checked read: it answers exactly when the access is in bounds, with the bytes in order (R54, R59). -/
theorem Memory.readBytes?_eq_some {m : Memory} {a n : Nat} {bs : List Byte} :
    m.readBytes? a n = some bs ↔ inBounds a n = true ∧ bs = m.readFrom a n := by
  by_cases hb : inBounds a n = true
  · simp only [Memory.readBytes?, hb, ↓reduceIte, Option.some.injEq, true_and]
    exact eq_comm
  · simp [Memory.readBytes?, hb]

/-- A word access is in bounds exactly when its lower address is at most 0xFFE (R56). -/
theorem inBounds_two {a : Nat} : inBounds a 2 = true ↔ a ≤ 0xFFE := by
  simp [inBounds, Config.memSize]

/-- The word read: it answers exactly when both bytes are inside memory, big-endian (R54, R56). -/
theorem Memory.readWord?_eq_some {m : Memory} {a : Nat} {w : Word} :
    m.readWord? a = some w ↔ a ≤ 0xFFE ∧ w = m.read a ++ m.read (a + 1) := by
  by_cases hb : inBounds a 2 = true
  · simp only [Memory.readWord?, hb, ↓reduceIte, Option.some.injEq, wordOfBytes, inBounds_two.mp hb, true_and]
    exact eq_comm
  · simp [Memory.readWord?, hb, mt inBounds_two.mpr hb]

theorem Memory.readWord?_eq_none {m : Memory} {a : Nat} : m.readWord? a = none ↔ a > 0xFFE := by
  rw [← not_iff_not, Nat.not_lt, ← inBounds_two]
  by_cases hb : inBounds a 2 = true <;> simp [Memory.readWord?, hb]

/-- Reset memory is in canonical form. -/
theorem Memory.wf_reset : State.reset.mem.wf = true := rfl

end Sys2Proof.Machine
end

