-- ==== Sys2Proof/Laws/Regs.lean ====
section
/-! SUPPORT. What a register reads as after the operations that write registers. -/

namespace Sys2Proof.Machine

/-- A write changes the register it names and no other (R20). -/
theorem State.reg_setReg (s : State) (x r : RegId) (b : Byte) :
    (s.setReg x b).reg r = if r = x then b else s.reg r := by
  simp only [State.reg, State.setReg, Vector.getElem_set, BitVec.toNat_inj]
  by_cases h : x = r
  · simp [h]
  · simp [h, Ne.symm h]

@[simp] theorem State.reg_setReg_self (s : State) (x : RegId) (b : Byte) : (s.setReg x b).reg x = b := by
  simp [State.reg_setReg]

@[simp] theorem State.reg_setReg_of_ne (s : State) {x r : RegId} (b : Byte) (h : r ≠ x) :
    (s.setReg x b).reg r = s.reg r := by simp [State.reg_setReg, h]

/-- Writing a register with its own value changes nothing. -/
theorem State.setReg_reg (s : State) (x : RegId) : s.setReg x (s.reg x) = s := by
  simp [State.setReg, State.reg]

/-- Register r is below the number of bytes: it takes its byte; else it keeps its value (R145). -/
theorem State.reg_setRegs (s : State) (bs : List Byte) (r : RegId) :
    (s.setRegs bs).reg r = (bs[r.toNat]?).getD (s.reg r) := by
  simp [State.reg, State.setRegs]

/-- `regsUpTo x` is V0 to VX, in order (R144). -/
theorem State.regsUpTo_length (s : State) (x : RegId) : (s.regsUpTo x).length = x.toNat + 1 := by
  have := x.isLt
  simp only [State.regsUpTo, List.length_take, Vector.length_toList]
  omega

theorem State.regsUpTo_getElem? (s : State) (x r : RegId) (h : r.toNat ≤ x.toNat) :
    (s.regsUpTo x)[r.toNat]? = some (s.reg r) := by
  have := r.isLt
  simp only [State.regsUpTo, State.reg]
  rw [List.getElem?_take_of_lt (by omega), List.getElem?_eq_getElem (by simpa using r.isLt)]
  simp

/-- What the two assignments of a flag-writing instruction leave in a register (R137). -/
theorem State.reg_flagThenResult (s : State) (x r : RegId) (flag result : State → Byte) :
    (s.flagThenResult x flag result).reg r =
      if r = x then result (s.setReg VF (flag s)) else if r = VF then flag s else s.reg r := by
  simp only [State.flagThenResult, State.reg_setReg]

/-- The two assignments touch the registers only (R137). -/
theorem State.flagThenResult_eq (s : State) (x : RegId) (flag result : State → Byte) :
    s.flagThenResult x flag result =
      { s with v := (s.flagThenResult x flag result).v } := rfl

/-- A flag is the number 1 or 0. -/
theorem flagOf_toNat (c : Bool) : (flagOf c).toNat = if c then 1 else 0 := by cases c <;> rfl

theorem carryFlag_toNat (a b : Byte) : (carryFlag a b).toNat = if a.toNat + b.toNat > 255 then 1 else 0 := by
  simp [carryFlag, flagOf_toNat]

theorem noBorrowFlag_toNat (a b : Byte) : (noBorrowFlag a b).toNat = if a.toNat ≥ b.toNat then 1 else 0 := by
  simp [noBorrowFlag, flagOf_toNat]

theorem lowBitFlag_toNat (a : Byte) : (lowBitFlag a).toNat = a.toNat % 2 := by
  simp [lowBitFlag, BitVec.toNat_and, Nat.and_one_is_mod]

theorem highBitFlag_toNat (a : Byte) : (highBitFlag a).toNat = a.toNat / 128 := by
  revert a; decide

end Sys2Proof.Machine
end

