-- ==== Sys2Proof/Laws/Machine.lean ====
section
/-! SUPPORT. One lemma per shared operation, saying all it can do: the call stack, the keypad, the fetch, and one step. -/

namespace Sys2Proof.Machine

/-! ### The call stack -/

/-- A push answers exactly when SP < 16; then the slot at SP holds the address, SP is one more, and nothing else differs
(R27). -/
theorem State.push?_eq_some {s t : State} {a : Word} :
    s.push? a = some t ↔ ∃ h : s.sp.val < 16,
      t = { s with stack := s.stack.set s.sp.val a, sp := ⟨s.sp.val + 1, Nat.succ_lt_succ h⟩ } := by
  by_cases h : s.sp.val < 16
  · rw [State.push?, dif_pos h, Option.some.injEq]
    exact ⟨fun e => ⟨h, e.symm⟩, fun ⟨_, e⟩ => e.symm⟩
  · simp [State.push?, h]

theorem State.push?_eq_none {s : State} {a : Word} : s.push? a = none ↔ s.sp.val = 16 := by
  have := s.sp.isLt
  by_cases h : s.sp.val < 16
  · simp only [State.push?, h, ↓reduceDIte, reduceCtorEq, false_iff]
    omega
  · simp only [State.push?, h, ↓reduceDIte, true_iff]
    omega

/-- A pop answers exactly when SP > 0; then it gives the newest live slot, SP is one less, and nothing else differs
(R28). -/
theorem State.pop?_eq_some {s t : State} {a : Word} :
    s.pop? = some (a, t) ↔ ∃ h : 0 < s.sp.val,
      a = s.stack[s.sp.val - 1]'(by have := s.sp.isLt; omega) ∧
      t = { s with sp := ⟨s.sp.val - 1, by have := s.sp.isLt; omega⟩ } := by
  by_cases h : 0 < s.sp.val
  · rw [State.pop?, dif_pos h, Option.some.injEq, Prod.mk.injEq]
    exact ⟨fun ⟨e, e'⟩ => ⟨h, e.symm, e'.symm⟩, fun ⟨_, e, e'⟩ => ⟨e.symm, e'.symm⟩⟩
  · simp [State.pop?, h]

theorem State.pop?_eq_none {s : State} : s.pop? = none ↔ s.sp.val = 0 := by
  by_cases h : 0 < s.sp.val
  · simp only [State.pop?, h, ↓reduceDIte, reduceCtorEq, false_iff]
    omega
  · simp only [State.pop?, h, ↓reduceDIte, true_iff]
    omega

/-! ### Stores through I -/

/-- A store through I completes exactly when its bytes are in bounds; then memory is the one written and pc has advanced
(R59, R143, R144). -/
theorem storeAtI_eq_next {bs : List Byte} {w : Word} {s t : State} :
    storeAtI bs w s = .next t ↔
      inBounds s.base bs.length = true ∧ t = (s.setMem (s.mem.writeFrom s.base bs)).advance := by
  unfold storeAtI takeFault Memory.writeBytes?
  by_cases h : inBounds s.base bs.length = true
  · simp only [h, ↓reduceIte, Host.Outcome.next.injEq, true_and]
    exact eq_comm
  · simp [h]

/-- A store through I that is out of bounds faults, and changes nothing (R59, R186). -/
theorem storeAtI_eq_fault {bs : List Byte} {w : Word} {s : State} (h : inBounds s.base bs.length = false) :
    storeAtI bs w s = .fault (.invalidOpcode .addressOutOfRange w s.pc) := by
  simp [storeAtI, takeFault, Memory.writeBytes?, h]

/-- The bounds check, spelt out (R54, R55, R59). -/
theorem inBounds_iff {a n : Nat} : inBounds a n = true ↔ n = 0 ∨ a + n ≤ 0x1000 := by
  simp [inBounds, Config.memSize]

/-! ### The keypad -/

/-- The query for a key identifier (R31). -/
theorem State.isDown_eq_true {s : State} {k : Byte} :
    s.isDown k = true ↔ ∃ h : k.toNat < 16, s.keys[k.toNat] = true := by
  by_cases h : k.toNat < 16 <;> simp [State.isDown, h]

/-- The least key down: a key that is down, with none below it down (R163). -/
theorem State.lowestKey?_eq_some {s : State} {k : Nat} :
    s.lowestKey? = some k ↔ ∃ h : k < 16, s.keys[k] = true ∧ ∀ j, ∀ _ : j < k, s.keys[j] = false := by
  have down : ∀ j, ∀ h : j < 16, s.isDown (BitVec.ofNat 8 j) = s.keys[j] := by
    intro j h
    simp [State.isDown, Nat.mod_eq_of_lt (show j < 256 by omega), h]
  simp only [State.lowestKey?, List.find?_range_eq_some, List.mem_range]
  constructor
  · rintro ⟨h1, h2, h3⟩
    refine ⟨h2, by rwa [down k h2] at h1, fun j hj => ?_⟩
    simpa [down j (by omega)] using h3 j hj
  · rintro ⟨h, h1, h2⟩
    refine ⟨by rwa [down k h], h, fun j hj => ?_⟩
    simpa [down j (by omega)] using h2 j hj

theorem State.lowestKey?_eq_none {s : State} : s.lowestKey? = none ↔ ∀ k : Fin 16, s.keys[k] = false := by
  simp only [State.lowestKey?, List.find?_eq_none, List.mem_range, Bool.not_eq_true]
  constructor
  · intro h k
    have := h k.val k.isLt
    simpa [State.isDown, Nat.mod_eq_of_lt (show k.val < 256 by omega)] using this
  · intro h k hk
    simpa [State.isDown, Nat.mod_eq_of_lt (show k < 256 by omega), hk] using h ⟨k, hk⟩

/-! ### Fetch and step -/

/-- The word at pc: it exists exactly when pc ≤ 0xFFE (R56). -/
theorem State.fetchWord?_eq_some {s : State} {w : Word} :
    s.fetchWord? = some w ↔
      s.pc.toNat ≤ 0xFFE ∧ w = s.mem.read s.pc.toNat ++ s.mem.read (s.pc.toNat + 1) :=
  Memory.readWord?_eq_some

theorem State.fetchWord?_eq_none {s : State} : s.fetchWord? = none ↔ s.pc.toNat > 0xFFE :=
  Memory.readWord?_eq_none

/-- A fetch that gives an instruction: pc is in range and the word there decodes to it. -/
theorem State.fetch_eq_insn {s : State} {i : Instr} :
    s.fetch = .insn i ↔ ∃ w, s.fetchWord? = some w ∧ decodeWord w = some i := by
  unfold State.fetch
  cases s.fetchWord? with
  | none => simp
  | some w => cases h : decodeWord w <;> simp [h]

/-- All a step that answers a next state can be (R41): a poll while waiting, or the execution of the fetched
instruction. -/
theorem step_eq_next {s t : State} :
    step s = .next t ↔ (s.mode = .awaitingKey ∧ awaitingKeyPoll s = .next t) ∨
      (s.mode = .running ∧ ∃ i, s.fetch = .insn i ∧ exec i s = .next t) := by
  unfold step
  cases s.mode with
  | awaitingKey => simp
  | running => cases h : s.fetch <;> simp

/-- A step never refuses, when no instruction does. -/
theorem step_eq_refused {s : State} {r : Refusal} (h : step s = .refused r) :
    ∃ i, s.fetch = .insn i ∧ exec i s = .refused r := by
  unfold step at h
  cases hm : s.mode with
  | awaitingKey =>
    simp only [hm] at h
    unfold awaitingKeyPoll at h
    split at h <;> cases h
  | running =>
    simp only [hm] at h
    cases hf : s.fetch with
    | insn i => exact ⟨i, rfl, by simpa [hf] using h⟩
    | failed f => simp [hf] at h

/-- The poll answers a next state always: a capture of the least key down, or the same state (R163). -/
theorem awaitingKeyPoll_eq (s : State) :
    awaitingKeyPoll s = .next
      (match s.lowestKey? with
        | some k => (s.setReg s.wreg (BitVec.ofNat 8 k)).advance.setMode .running
        | none => s) := by
  unfold awaitingKeyPoll
  cases s.lowestKey? <;> rfl

/-- A placed word is what the next step fetches. -/
theorem State.placeWord_fetchWord? (s : State) (w : Word) : (s.placeWord w).fetchWord? = some w := by
  have hpc : (if s.pc.toNat ≤ 0xFFE then s.pc else Config.resetPc).toNat ≤ 0xFFE := by
    split
    · assumption
    · decide
  rw [State.fetchWord?_eq_some]
  simp only [State.placeWord, State.setMode_pc, State.setMem_pc, State.setPc_pc, State.setMode_mem, State.setMem_mem,
    Memory.read_writeFrom]
  exact ⟨hpc, by simpa [bytesOfWord, wordOfBytes] using (wordOfBytes_bytes w).symm⟩

/-- The next step after the host's placing runs exactly the decoded instruction. -/
theorem step_withFetchWord (s : State) (nbits w : Nat) {i : Instr} (h : decodeTableWord nbits w = some i) :
    step (s.withFetchWord nbits w) = exec i (s.withFetchWord nbits w) := by
  have hf : (s.withFetchWord nbits w).fetch = .insn i :=
    State.fetch_eq_insn.mpr ⟨_, State.placeWord_fetchWord? s _, by rw [← decodeTableWord_eq, h]⟩
  have hm : (s.withFetchWord nbits w).mode = .running := rfl
  simp [step, hm, hf]

end Sys2Proof.Machine
end

