-- ==== Sys2Proof/Laws/PerInstr.lean ====
section
/-! SUPPORT. The per-instruction family TableRow: the word an instruction is encoded as matches its own row of the opcode
table (R75), and its row is in the table. -/

namespace Sys2Proof.Laws.TableRow

/-- The encoded word of a well-formed instruction has its row's match under its row's mask, and the row is one of the
34. -/
def Statement (i : Instr) : Prop :=
  i.wellFormed = true → i.row.accepts (encode i) = true ∧ i.row ∈ opcodeTable

theorem op00E0 : Statement (.op00E0) :=
  fun _ => ⟨by decide, row_mem_opcodeTable _⟩

theorem op00EE : Statement (.op00EE) :=
  fun _ => ⟨by decide, row_mem_opcodeTable _⟩

theorem op1NNN (nnn : Addr) : Statement (.op1NNN nnn) :=
  fun _ => ⟨accepts_op 0x1#4 nnn, row_mem_opcodeTable _⟩

theorem op2NNN (nnn : Addr) : Statement (.op2NNN nnn) :=
  fun _ => ⟨accepts_op 0x2#4 nnn, row_mem_opcodeTable _⟩

theorem op3XNN (x : RegId) (nn : Byte) : Statement (.op3XNN x nn) :=
  fun _ => ⟨accepts_op 0x3#4 (x ++ nn), row_mem_opcodeTable _⟩

theorem op4XNN (x : RegId) (nn : Byte) : Statement (.op4XNN x nn) :=
  fun _ => ⟨accepts_op 0x4#4 (x ++ nn), row_mem_opcodeTable _⟩

theorem op5XY0 (x y : RegId) : Statement (.op5XY0 x y) :=
  fun _ => ⟨accepts_op_n 0x5#4 x y 0x0#4, row_mem_opcodeTable _⟩

theorem op6XNN (x : RegId) (nn : Byte) : Statement (.op6XNN x nn) :=
  fun _ => ⟨accepts_op 0x6#4 (x ++ nn), row_mem_opcodeTable _⟩

theorem op7XNN (x : RegId) (nn : Byte) : Statement (.op7XNN x nn) :=
  fun _ => ⟨accepts_op 0x7#4 (x ++ nn), row_mem_opcodeTable _⟩

theorem op8XY0 (x y : RegId) : Statement (.op8XY0 x y) :=
  fun _ => ⟨accepts_op_n 0x8#4 x y 0x0#4, row_mem_opcodeTable _⟩

theorem op8XY1 (x y : RegId) : Statement (.op8XY1 x y) :=
  fun _ => ⟨accepts_op_n 0x8#4 x y 0x1#4, row_mem_opcodeTable _⟩

theorem op8XY2 (x y : RegId) : Statement (.op8XY2 x y) :=
  fun _ => ⟨accepts_op_n 0x8#4 x y 0x2#4, row_mem_opcodeTable _⟩

theorem op8XY3 (x y : RegId) : Statement (.op8XY3 x y) :=
  fun _ => ⟨accepts_op_n 0x8#4 x y 0x3#4, row_mem_opcodeTable _⟩

theorem op8XY4 (x y : RegId) : Statement (.op8XY4 x y) :=
  fun _ => ⟨accepts_op_n 0x8#4 x y 0x4#4, row_mem_opcodeTable _⟩

theorem op8XY5 (x y : RegId) : Statement (.op8XY5 x y) :=
  fun _ => ⟨accepts_op_n 0x8#4 x y 0x5#4, row_mem_opcodeTable _⟩

theorem op8XY6 (x y : RegId) : Statement (.op8XY6 x y) :=
  fun _ => ⟨accepts_op_n 0x8#4 x y 0x6#4, row_mem_opcodeTable _⟩

theorem op8XY7 (x y : RegId) : Statement (.op8XY7 x y) :=
  fun _ => ⟨accepts_op_n 0x8#4 x y 0x7#4, row_mem_opcodeTable _⟩

theorem op8XYE (x y : RegId) : Statement (.op8XYE x y) :=
  fun _ => ⟨accepts_op_n 0x8#4 x y 0xE#4, row_mem_opcodeTable _⟩

theorem op9XY0 (x y : RegId) : Statement (.op9XY0 x y) :=
  fun _ => ⟨accepts_op_n 0x9#4 x y 0x0#4, row_mem_opcodeTable _⟩

theorem opANNN (nnn : Addr) : Statement (.opANNN nnn) :=
  fun _ => ⟨accepts_op 0xA#4 nnn, row_mem_opcodeTable _⟩

theorem opBNNN (nnn : Addr) : Statement (.opBNNN nnn) :=
  fun _ => ⟨accepts_op 0xB#4 nnn, row_mem_opcodeTable _⟩

theorem opCXNN (x : RegId) (nn : Byte) : Statement (.opCXNN x nn) :=
  fun _ => ⟨accepts_op 0xC#4 (x ++ nn), row_mem_opcodeTable _⟩

theorem opDXYN (x y : RegId) (n : Nibble) : Statement (.opDXYN x y n) :=
  fun _ => ⟨accepts_op 0xD#4 (x ++ (y ++ n)), row_mem_opcodeTable _⟩

theorem opEX9E (x : RegId) : Statement (.opEX9E x) :=
  fun _ => ⟨accepts_op_nn 0xE#4 x 0x9E#8, row_mem_opcodeTable _⟩

theorem opEXA1 (x : RegId) : Statement (.opEXA1 x) :=
  fun _ => ⟨accepts_op_nn 0xE#4 x 0xA1#8, row_mem_opcodeTable _⟩

theorem opFX07 (x : RegId) : Statement (.opFX07 x) :=
  fun _ => ⟨accepts_op_nn 0xF#4 x 0x07#8, row_mem_opcodeTable _⟩

theorem opFX0A (x : RegId) : Statement (.opFX0A x) :=
  fun _ => ⟨accepts_op_nn 0xF#4 x 0x0A#8, row_mem_opcodeTable _⟩

theorem opFX15 (x : RegId) : Statement (.opFX15 x) :=
  fun _ => ⟨accepts_op_nn 0xF#4 x 0x15#8, row_mem_opcodeTable _⟩

theorem opFX18 (x : RegId) : Statement (.opFX18 x) :=
  fun _ => ⟨accepts_op_nn 0xF#4 x 0x18#8, row_mem_opcodeTable _⟩

theorem opFX1E (x : RegId) : Statement (.opFX1E x) :=
  fun _ => ⟨accepts_op_nn 0xF#4 x 0x1E#8, row_mem_opcodeTable _⟩

theorem opFX29 (x : RegId) : Statement (.opFX29 x) :=
  fun _ => ⟨accepts_op_nn 0xF#4 x 0x29#8, row_mem_opcodeTable _⟩

theorem opFX33 (x : RegId) : Statement (.opFX33 x) :=
  fun _ => ⟨accepts_op_nn 0xF#4 x 0x33#8, row_mem_opcodeTable _⟩

theorem opFX55 (x : RegId) : Statement (.opFX55 x) :=
  fun _ => ⟨accepts_op_nn 0xF#4 x 0x55#8, row_mem_opcodeTable _⟩

theorem opFX65 (x : RegId) : Statement (.opFX65 x) :=
  fun _ => ⟨accepts_op_nn 0xF#4 x 0x65#8, row_mem_opcodeTable _⟩

end Sys2Proof.Laws.TableRow
end

