-- ==== Sys2Proof/Tests/Slice0.lean ====
section
/-! SUPPORT. The model's own tests.  Every expected value is a vector of spec/95_test_vectors.md (its label is in the
comment) or is worked out by hand from the rule named; then the witnesses of the statements' hypotheses. -/

namespace Sys2Proof.Tests

open Sys2Proof.Machine

/-- The next state of an outcome. -/
def nextOf : Result → Option State
  | .next s => some s
  | .fault _ => none
  | .refused _ => none

/-- The fault of an outcome. -/
def faultOf : Result → Option Fault
  | .next _ => none
  | .fault f => some f
  | .refused _ => none

/-- A word at pc in a state; then one step, of which some fields are read. -/
def run {α : Type} (w : Word) (s : State) (f : State → α) : Option α := (nextOf (step (s.placeWord w))).map f

/-- The fault of one step with a word at pc. -/
def fails (w : Word) (s : State) : Option Fault := faultOf (step (s.placeWord w))

/-- The reset state with a pc. -/
def atPc (pc : Word) : State := State.reset.setPc pc

/-- The reset state with V0 and V1. -/
def v01 (a b : Byte) : State := (State.reset.setReg 0 a).setReg 1 b

/-- The reset state with bytes stored at an address, and I there. -/
def data (a : Nat) (bs : List Byte) : State :=
  (State.reset.setMem (State.reset.mem.writeFrom a bs)).setI (BitVec.ofNat 16 a)

/-- The reset state with a full call stack. -/
def fullStack : State := { State.reset with sp := 16 }

/-- The engine waiting for a key into a register, with the keys of a list down. -/
def waiting (x : RegId) (down : List (Fin 16)) : State :=
  ((down.foldl (fun s k => s.setKey k true) State.reset).setMode .awaitingKey).setWreg x

/-! ### Well-formedness -/

/-- An ill-formed key identifier is refused by the check, and the boundary passes (R197, X12). -/
theorem test_ill_formed_key : keyIdWellFormed 0x10#8 = false ∧ keyIdWellFormed 0x0F#8 = true := by decide

/-- An ill-formed image, one byte too long, is refused by the check, and the boundary passes (R212, X14, X15). -/
theorem test_ill_formed_image : imageWellFormed (List.replicate 0xE01 0#8) = false ∧
    imageWellFormed (List.replicate 0xE00 0#8) = true := by
  simp only [imageWellFormed, List.length_replicate]; decide

/-! ### Decoding: words written out from the encodings (R71, R72, R75) -/

/-- The fields of 0xD5A7 (section 3.7). -/
theorem test_fields : opField 0xD5A7#16 = 0xD#4 ∧ xField 0xD5A7#16 = 0x5#4 ∧ yField 0xD5A7#16 = 0xA#4 ∧
    nField 0xD5A7#16 = 0x7#4 ∧ nnField 0xD5A7#16 = 0xA7#8 ∧ nnnField 0xD5A7#16 = 0x5A7#12 := by decide

theorem test_decode_flow :
    [0x00EE#16, 0x10E0#16, 0x2ABC#16, 0xB2F1#16].map decodeWord =
      [some .op00EE, some (.op1NNN 0x0E0#12), some (.op2NNN 0xABC#12), some (.opBNNN 0x2F1#12)] := by decide

theorem test_decode_skip :
    [0x3F01#16, 0x432B#16, 0x5AB0#16, 0x9120#16].map decodeWord =
      [some (.op3XNN 0xF#4 0x01#8), some (.op4XNN 0x3#4 0x2B#8), some (.op5XY0 0xA#4 0xB#4),
       some (.op9XY0 0x1#4 0x2#4)] := by decide

theorem test_decode_load_alu :
    [0x63AB#16, 0x70FF#16, 0x8AB0#16, 0x8AB1#16, 0x8AB2#16, 0x8AB3#16, 0x8AB4#16, 0x8AB5#16, 0x8AB6#16, 0x8AB7#16,
     0x8ABE#16].map decodeWord =
      [some (.op6XNN 0x3#4 0xAB#8), some (.op7XNN 0x0#4 0xFF#8), some (.op8XY0 0xA#4 0xB#4),
       some (.op8XY1 0xA#4 0xB#4), some (.op8XY2 0xA#4 0xB#4), some (.op8XY3 0xA#4 0xB#4), some (.op8XY4 0xA#4 0xB#4),
       some (.op8XY5 0xA#4 0xB#4), some (.op8XY6 0xA#4 0xB#4), some (.op8XY7 0xA#4 0xB#4),
       some (.op8XYE 0xA#4 0xB#4)] := by decide

theorem test_decode_index_memory :
    [0xA300#16, 0xF21E#16, 0xF229#16, 0xF133#16, 0xF155#16, 0xF265#16].map decodeWord =
      [some (.opANNN 0x300#12), some (.opFX1E 0x2#4), some (.opFX29 0x2#4), some (.opFX33 0x1#4),
       some (.opFX55 0x1#4), some (.opFX65 0x2#4)] := by decide

theorem test_decode_display :
    [0x00E0#16, 0xD012#16, 0xD000#16].map decodeWord =
      [some .op00E0, some (.opDXYN 0x0#4 0x1#4 0x2#4), some (.opDXYN 0x0#4 0x0#4 0x0#4)] := by decide

theorem test_decode_keypad_timer_random :
    [0xE29E#16, 0xE2A1#16, 0xF407#16, 0xF30A#16, 0xF315#16, 0xF118#16, 0xC50F#16].map decodeWord =
      [some (.opEX9E 0x2#4), some (.opEXA1 0x2#4), some (.opFX07 0x4#4), some (.opFX0A 0x3#4), some (.opFX15 0x3#4),
       some (.opFX18 0x1#4), some (.opCXNN 0x5#4 0x0F#8)] := by decide

/-- Illegal words (section 3.7). -/
theorem test_decode_illegal :
    [0x0000#16, 0x00E1#16, 0x00FE#16, 0x0123#16, 0x5AB1#16, 0x8AB8#16, 0x8ABF#16, 0x9AB5#16, 0xE19F#16, 0xE100#16,
     0xF100#16, 0xF10B#16, 0xF175#16, 0xF185#16, 0xFFFF#16].all (fun w => (decodeWord w).isNone) = true := by decide

/-- The byte decoder: the high byte first, the rest kept, an illegal word and a short input by name (R56, R70). -/
theorem test_decode_bytes : decode [0xD5#8, 0xA7#8, 0x12#8] = .insn (.opDXYN 0x5#4 0xA#4 0x7#4) [0x12#8] ∧
    decode [0x5A#8, 0xB1#8] = .illegal 0x5AB1#16 ∧ decode [0x12#8] = .truncated := by decide

/-- The host's numbering, bit 0 the least significant bit of the word. -/
theorem test_decodeTableWord : decodeTableWord 16 0x8AB4 = some (.op8XY4 0xA#4 0xB#4) := by decide

/-! ### Flow (section 3.1) -/

/-- F8. -/
theorem test_00EE : run 0x00EE#16 { atPc 0x020C#16 with sp := 1, stack := State.reset.stack.set 0 0x0204#16 }
    (fun t => (t.pc, t.sp)) = some (0x0206#16, 0) := by decide
/-- F9, X6. -/
theorem test_00EE_underflow : fails 0x00EE#16 State.reset = some (.stackUnderflow 0x00EE#16 0x0200#16) := by decide
/-- F1. -/
theorem test_1NNN : run 0x1204#16 (atPc 0x020A#16) State.pc = some 0x0204#16 := by decide
/-- F5: the address pushed is the call's own. -/
theorem test_2NNN : run 0x220A#16 (atPc 0x0204#16) (fun t => (t.pc, t.sp, t.stack[0])) =
    some (0x020A#16, 1, 0x0204#16) := by decide
/-- F7, X7. -/
theorem test_2NNN_overflow : fails 0x2ABC#16 fullStack = some (.stackOverflow 0x2ABC#16 0x0200#16) := by decide
/-- F12: the sum is not masked. -/
theorem test_BNNN_top : run 0xBFFF#16 (State.reset.setReg 0 0xFF#8) State.pc = some 0x10FE#16 := by decide
/-- F13: the register is V0, whatever the X nibble. -/
theorem test_BNNN_uses_v0 : run 0xB2F1#16 ((State.reset.setReg 0 1#8).setReg 2 7#8) State.pc =
    some 0x02F2#16 := by decide

/-! ### Skips (section 3.2) -/

/-- S1, S2. -/
theorem test_3XNN : run 0x3000#16 (atPc 0x0208#16) State.pc = some 0x020C#16 ∧
    run 0x3000#16 ((atPc 0x0208#16).setReg 0 1#8) State.pc = some 0x020A#16 := by decide
/-- S4, S5. -/
theorem test_4XNN : run 0x432A#16 ((atPc 0x0300#16).setReg 3 0x2A#8) State.pc = some 0x0302#16 ∧
    run 0x432B#16 ((atPc 0x0300#16).setReg 3 0x2A#8) State.pc = some 0x0304#16 := by decide
/-- S7, S8. -/
theorem test_5XY0 : run 0x5120#16 (((atPc 0x0210#16).setReg 1 7#8).setReg 2 8#8) State.pc = some 0x0212#16 ∧
    run 0x5330#16 (State.reset.setReg 3 0x99#8) State.pc = some 0x0204#16 := by decide
/-- S9, S11. -/
theorem test_9XY0 : run 0x9120#16 (((atPc 0x0210#16).setReg 1 7#8).setReg 2 8#8) State.pc = some 0x0214#16 ∧
    run 0x9AA0#16 (State.reset.setReg 0xA 3#8) State.pc = some 0x0202#16 := by decide

/-! ### Load and ALU (section 3.3) -/

/-- A1. -/
theorem test_6XNN : run 0x63AB#16 State.reset (fun t => (t.reg 3, t.pc)) = some (0xAB#8, 0x0202#16) := by decide
/-- A4: the sum wraps and VF keeps its value. -/
theorem test_7XNN : run 0x7001#16 ((State.reset.setReg 0 0xFF#8).setReg VF 1#8) (fun t => (t.reg 0, t.reg VF)) =
    some (0x00#8, 0x01#8) := by decide
/-- A7. -/
theorem test_8XY0 : run 0x8120#16 ((State.reset.setReg 1 1#8).setReg 2 0xAB#8) (fun t => t.reg 1) =
    some 0xAB#8 := by decide
/-- A8: VF is not reset. -/
theorem test_8XY1 : run 0x8011#16 ((v01 0xF0#8 0x0F#8).setReg VF 1#8) (fun t => (t.reg 0, t.reg VF)) =
    some (0xFF#8, 0x01#8) := by decide
/-- A9. -/
theorem test_8XY2 : run 0x8012#16 (v01 0xF0#8 0x3C#8) (fun t => t.reg 0) = some 0x30#8 := by decide
/-- A10. -/
theorem test_8XY3 : run 0x8013#16 (v01 0xF0#8 0x3C#8) (fun t => t.reg 0) = some 0xCC#8 := by decide
/-- A13. -/
theorem test_8XY4 : run 0x8014#16 (v01 0xFF#8 0x01#8) (fun t => (t.reg 0, t.reg VF)) =
    some (0x00#8, 0x01#8) := by decide
/-- W1, W2, W10: the flag is written first and read back. -/
theorem test_8XY4_vf : run 0x8F14#16 ((State.reset.setReg VF 3#8).setReg 1 5#8) (fun t => t.reg VF) = some 0x05#8 ∧
    run 0x81F4#16 ((State.reset.setReg 1 0xFF#8).setReg VF 2#8) (fun t => (t.reg 1, t.reg VF)) =
      some (0x00#8, 0x01#8) ∧
    run 0x8FF4#16 (State.reset.setReg VF 0x90#8) (fun t => t.reg VF) = some 0x02#8 := by decide
/-- A17, A18. -/
theorem test_8XY5 : run 0x8015#16 (v01 0x01#8 0x05#8) (fun t => (t.reg 0, t.reg VF)) = some (0xFC#8, 0x00#8) ∧
    run 0x8015#16 (v01 0x07#8 0x07#8) (fun t => (t.reg 0, t.reg VF)) = some (0x00#8, 0x01#8) := by decide
/-- W3, W4, W11. -/
theorem test_8XY5_vf : run 0x8F15#16 ((State.reset.setReg VF 3#8).setReg 1 5#8) (fun t => t.reg VF) = some 0xFB#8 ∧
    run 0x81F5#16 ((State.reset.setReg 1 5#8).setReg VF 3#8) (fun t => (t.reg 1, t.reg VF)) =
      some (0x04#8, 0x01#8) ∧
    run 0x8FF5#16 (State.reset.setReg VF 7#8) (fun t => t.reg VF) = some 0x00#8 := by decide
/-- A20: V1 is neither read nor written. -/
theorem test_8XY6 : run 0x8016#16 (v01 0x81#8 0x33#8) (fun t => (t.reg 0, t.reg VF, t.reg 1)) =
    some (0x40#8, 0x01#8, 0x33#8) := by decide
/-- W5, W13. -/
theorem test_8XY6_vf : run 0x8F06#16 (State.reset.setReg VF 5#8) (fun t => t.reg VF) = some 0x00#8 ∧
    run 0x81F6#16 ((State.reset.setReg 1 3#8).setReg VF 0x80#8) (fun t => (t.reg 1, t.reg VF)) =
      some (0x01#8, 0x01#8) := by decide
/-- A23, A24. -/
theorem test_8XY7 : run 0x8017#16 (v01 0x03#8 0x05#8) (fun t => (t.reg 0, t.reg VF)) = some (0x02#8, 0x01#8) ∧
    run 0x8017#16 (v01 0x05#8 0x01#8) (fun t => (t.reg 0, t.reg VF)) = some (0xFC#8, 0x00#8) := by decide
/-- W6, W7. -/
theorem test_8XY7_vf : run 0x8F17#16 ((State.reset.setReg VF 3#8).setReg 1 5#8) (fun t => t.reg VF) = some 0x04#8 ∧
    run 0x81F7#16 ((State.reset.setReg 1 5#8).setReg VF 9#8) (fun t => (t.reg 1, t.reg VF)) =
      some (0xFC#8, 0x01#8) := by decide
/-- A26, A28. -/
theorem test_8XYE : run 0x801E#16 (v01 0x81#8 0x33#8) (fun t => (t.reg 0, t.reg VF)) = some (0x02#8, 0x01#8) ∧
    run 0x800E#16 (v01 0xFF#8 0#8) (fun t => (t.reg 0, t.reg VF)) = some (0xFE#8, 0x01#8) := by decide
/-- W8, W9. -/
theorem test_8XYE_vf : run 0x8F0E#16 (State.reset.setReg VF 0xC1#8) (fun t => t.reg VF) = some 0x02#8 ∧
    run 0x8F0E#16 (State.reset.setReg VF 0x41#8) (fun t => t.reg VF) = some 0x00#8 := by decide

/-! ### Index register and memory (section 3.4) -/

/-- M2. -/
theorem test_ANNN : run 0xAFFF#16 (State.reset.setI 0x1234#16) State.i = some 0x0FFF#16 := by decide
/-- M4, M5: past 0xFFF without a fault or a flag, and the 16-bit wrap. -/
theorem test_FX1E : run 0xF01E#16 ((State.reset.setI 0x0FFF#16).setReg 0 1#8) (fun t => (t.i, t.reg VF)) =
      some (0x1000#16, 0x00#8) ∧
    run 0xF01E#16 ((State.reset.setI 0xFFFF#16).setReg 0 1#8) State.i = some 0x0000#16 := by decide
/-- M7, M10: not masked. -/
theorem test_FX29 : run 0xF229#16 (State.reset.setReg 2 0x0A#8) State.i = some 0x0032#16 ∧
    run 0xF029#16 (State.reset.setReg 0 0xFF#8) State.i = some 0x04FB#16 := by decide
/-- M11. -/
theorem test_FX33 : run 0xF033#16 ((State.reset.setReg 0 0x9D#8).setI 0x0300#16)
    (fun t => (t.mem.readFrom 0x300 3, t.i)) = some ([1#8, 5#8, 7#8], 0x0300#16) := by decide
/-- M14, M15. -/
theorem test_FX33_bounds : run 0xF033#16 ((State.reset.setReg 0 0x64#8).setI 0x0FFD#16)
      (fun t => t.mem.readFrom 0xFFD 3) = some [1#8, 0#8, 0#8] ∧
    fails 0xF033#16 ((State.reset.setReg 0 0x64#8).setI 0x0FFE#16) =
      some (.invalidOpcode .addressOutOfRange 0xF033#16 0x0200#16) := by decide
/-- M17: V2 is not stored. -/
theorem test_FX55 : run 0xF155#16 (((v01 0x12#8 0x0A#8).setReg 2 0x77#8).setI 0x0300#16)
    (fun t => (t.mem.readFrom 0x300 3, t.i)) = some ([0x12#8, 0x0A#8, 0x00#8], 0x0300#16) := by decide
/-- M18, X8. -/
theorem test_FX55_bounds : run 0xF055#16 ((v01 0xAB#8 0#8).setI 0x0FFF#16) (fun t => t.mem.read 0xFFF) =
      some 0xAB#8 ∧
    fails 0xF255#16 ((v01 1#8 2#8).setI 0x0FFE#16) =
      some (.invalidOpcode .addressOutOfRange 0xF255#16 0x0200#16) := by decide
/-- M20. -/
theorem test_FX65 : run 0xF265#16 ((data 0x300 [1#8, 5#8, 7#8, 9#8]).setReg 3 0xEE#8)
    (fun t => (t.reg 0, t.reg 1, t.reg 2, t.reg 3)) = some (1#8, 5#8, 7#8, 0xEE#8) := by decide
/-- M21, M24: the first font byte; one past the end. -/
theorem test_FX65_bounds : run 0xF065#16 State.reset (fun t => t.reg 0) = some 0xF0#8 ∧
    fails 0xFF65#16 (State.reset.setI 0x0FF1#16) =
      some (.invalidOpcode .addressOutOfRange 0xFF65#16 0x0200#16) := by decide

/-! ### Display (section 3.5) -/

/-- The reset state with some cells on. -/
def cellsOn (ps : List Pixel) (s : State) : State := s.setFb (ps.foldl Framebuffer.toggle s.fb)

/-- G1: lit cells are cleared and VF is not written. -/
theorem test_00E0 : run 0x00E0#16 (cellsOn [(10, 5), (63, 31)] (State.reset.setReg VF 1#8))
    (fun t => (t.fb.cell (10, 5), t.fb.cell (63, 31), t.redraw, t.reg VF)) =
      some (false, false, true, 0x01#8) := by decide
/-- G4: both wraps together. -/
theorem test_DXYN_wraps : run 0xD012#16 (((data 0x300 [0x81#8, 0xFF#8]).setReg 0 60#8).setReg 1 31#8)
    (fun t => (t.fb[31].toList.zipIdx.filterMap fun c => if c.1 then some c.2 else none,
      t.fb[0].toList.zipIdx.filterMap fun c => if c.1 then some c.2 else none, t.reg VF, t.redraw)) =
      some ([3, 60], [0, 1, 2, 3, 60, 61, 62, 63], 0x00#8, true) := by decide
/-- G8: one cell turned off is a collision. -/
theorem test_DXYN_collides : run 0xD011#16 (cellsOn [(11, 5)] (((data 0x300 [0xC0#8]).setReg 0 10#8).setReg 1 5#8))
    (fun t => (t.fb.cell (10, 5), t.fb.cell (11, 5), t.reg VF)) = some (true, false, 0x01#8) := by decide

/-! ### Keypad, timers, random (section 3.6) -/

/-- The reset state at pc 0x0220 with key 5 down and V2. -/
def key5 (v : Byte) : State := ((atPc 0x0220#16).setKey 5 true).setReg 2 v

/-- K1, K3. -/
theorem test_EX9E : run 0xE29E#16 (key5 0x05#8) State.pc = some 0x0224#16 ∧
    run 0xE29E#16 (key5 0x15#8) State.pc = some 0x0222#16 := by decide
/-- K4, K6. -/
theorem test_EXA1 : run 0xE2A1#16 (key5 0x05#8) State.pc = some 0x0222#16 ∧
    run 0xE2A1#16 (key5 0x15#8) State.pc = some 0x0224#16 := by decide
/-- K9: a key already down is not looked at. -/
theorem test_FX0A : run 0xF30A#16 (State.reset.setKey 4 true) (fun t => (t.mode, t.wreg, t.pc, t.reg 3)) =
    some (.awaitingKey, 3#4, 0x0200#16, 0x00#8) := by decide
/-- K11, K12. -/
theorem test_FX0A_poll : (nextOf (step (waiting 3 [7, 2]))).map (fun t => (t.reg 3, t.pc, t.mode)) =
      some (0x02#8, 0x0202#16, .running) ∧
    (nextOf (step ((waiting 0xF [0]).setReg VF 9#8))).map (fun t => (t.reg VF, t.pc)) =
      some (0x00#8, 0x0202#16) := by decide
/-- K14. -/
theorem test_FX07 : run 0xF407#16 (State.reset.setDt 0x1E#8) (fun t => t.reg 4) = some 0x1E#8 := by decide
/-- K15. -/
theorem test_FX15 : run 0xF315#16 (State.reset.setReg 3 2#8) State.dt = some 0x02#8 := by decide
/-- K17. -/
theorem test_FX18 : run 0xF118#16 (State.reset.setReg 1 0x3C#8) State.st = some 0x3C#8 := by decide
/-- K19: NN = 0 gives 0 whatever the byte drawn is, and the next draw is another one. -/
theorem test_CXNN : run 0xC500#16 (State.reset.setReg 5 0x77#8) (fun t => (t.reg 5, t.draws)) =
    some (Config.randomByte 0 &&& 0x00#8, 1) ∧ Config.randomByte 0 &&& 0x00#8 = 0x00#8 :=
  ⟨rfl, BitVec.and_zero⟩

/-! ### Faults and events (sections 3.8, 3.9) -/

/-- X1. -/
theorem test_step_before_load : faultOf (step State.reset) =
    some (.invalidOpcode .noDecodeRule 0x0000#16 0x0200#16) := by decide
/-- X2, X4: the highest pc at which a fetch succeeds is 0xFFE. -/
theorem test_fetch_bounds : faultOf (step (atPc 0x0FFF#16)) =
      some (.invalidOpcode .addressOutOfRange 0x0000#16 0x0FFF#16) ∧
    run 0x1200#16 (atPc 0x0FFE#16) State.pc = some 0x0200#16 := by decide
/-- T1. -/
theorem test_tick : (fun t : State => (t.dt, t.st)) (tick ((State.reset.setDt 5#8).setSt 1#8)) = (4#8, 0#8) := by decide
/-- T6: no timer goes below zero. -/
theorem test_tick_floor : (tick (tick (State.reset.setDt 1#8))).dt = 0#8 := by decide
/-- T7, X12. -/
theorem test_keyPress : (nextOf (keyPress 0x0A#8 State.reset)).map (fun t => t.keys[10]) = some true ∧
    faultOf (keyPress 0x10#8 State.reset) = some (.invalidKey 0x10#8) := by decide
/-- T9, X13. -/
theorem test_keyRelease : (nextOf (keyRelease 0x0A#8 (State.reset.setKey 10 true))).map (fun t => t.keys[10]) =
      some false ∧
    faultOf (keyRelease 0xFF#8 State.reset) = some (.invalidKey 0xFF#8) := by decide
/-- T15. -/
theorem test_loadProgram : (nextOf (loadProgram [0x12#8, 0x00#8] State.reset)).map
    (fun t => (t.mem.readFrom 0x200 3, t.pc)) = some ([0x12#8, 0x00#8, 0x00#8], 0x0200#16) := by decide
/-- X14: nothing is copied. -/
theorem test_loadProgram_too_large : faultOf (loadProgram (List.replicate 0xE01 0#8) State.reset) =
    some (.programTooLarge 3585) := by
  simp only [loadProgram, imageWellFormed, List.length_replicate]; rfl
/-- T12. -/
theorem test_takeRedraw : (takeRedraw (State.reset.setRedraw true)).1 = true ∧
    (takeRedraw (State.reset.setRedraw true)).2.redraw = false := by decide
/-- T17 after R213: a load is refused once a step has been issued, and possible again after a reset. -/
theorem test_load_window : (applyEvent (.loadProgram []) (applyEvent .step Session.start).1).2 =
      .refused .loadAfterFirstStep ∧
    (applyEvent (.loadProgram []) (applyEvent .reset (applyEvent .step Session.start).1).1).2 = .ok := by decide
/-- The glyph A of R52. -/
theorem test_font : State.reset.mem.readFrom 0x032 5 = [0xF0#8, 0x90#8, 0xF0#8, 0x90#8, 0x90#8] ∧
    font.length = 80 := by decide
/-- Section 4, P6: a store over the instruction stream is fetched. -/
theorem test_self_modifying : ((nextOf (exec (.opFX55 1#4) ((v01 0x12#8 0x0A#8).setI 0x0208#16))).map
    (fun t => (t.setPc 0x0208#16).fetchWord?)) = some (some 0x120A#16) := by decide

/-- The word the host places is what the next step runs, also where pc stood past the end of memory or a key was
awaited. -/
theorem test_withFetchWord : (nextOf (step (State.reset.withFetchWord 16 0x63AB))).map (fun t => t.reg 3) =
      some 0xAB#8 ∧
    (nextOf (step (((atPc 0x10FE#16).setMode .awaitingKey).withFetchWord 16 0x63AB))).map (fun t => t.reg 3) =
      some 0xAB#8 := by decide

/-! ### Witnesses: the hypotheses of the statements are met, clause by clause, at boundary values -/

theorem witness_DecodeOfEncodeGivesInstruction : Instr.wellFormed (.opDXYN 0xF#4 0xF#4 0xF#4) = true := by decide

theorem witness_EncodeOfDecodeGivesWord : decodeWord 0x8AB4#16 = some (.op8XY4 0xA#4 0xB#4) := by decide

theorem witness_DecodeFindsTheOneMatchingRow_match : (⟨0x5000#16, 0xF00F#16⟩ : Row) ∈ opcodeTable ∧
    0x5AB0#16 &&& 0xF00F#16 = 0x5000#16 := by decide

/-- The state whose next step fetches the illegal word 0x5AB1 at the last fetchable address. -/
def illegalAtTop : State := (atPc 0x0FFE#16).placeWord 0x5AB1#16

theorem witness_DecodeFindsTheOneMatchingRow_none :
    (∀ r, r ∈ opcodeTable → 0x5AB1#16 &&& r.mask ≠ r.pattern) ∧ illegalAtTop.mode = .running ∧
    illegalAtTop.pc.toNat ≤ 0xFFE ∧
    illegalAtTop.mem.read illegalAtTop.pc.toNat ++ illegalAtTop.mem.read (illegalAtTop.pc.toNat + 1) = 0x5AB1#16 := by
  decide

theorem witness_StepRunsTheDecodedInstruction :
    let s := (atPc 0x0FFE#16).placeWord 0x63AB#16
    s.mode = .running ∧ s.pc.toNat ≤ 0xFFE ∧ Instr.wellFormed (.op6XNN 0x3#4 0xAB#8) = true ∧
    decodeWord (s.mem.read s.pc.toNat ++ s.mem.read (s.pc.toNat + 1)) = some (.op6XNN 0x3#4 0xAB#8) := by decide

theorem witness_FetchFaultsThenDecodeFaults_fetch :
    (atPc 0x0FFF#16).mode = .running ∧ (atPc 0x0FFF#16).pc.toNat > 0xFFE := by decide

theorem witness_FetchFaultsThenDecodeFaults_decode :
    let s := atPc 0x0FFE#16
    s.mode = .running ∧ s.pc.toNat ≤ 0xFFE ∧
    decodeWord (s.mem.read s.pc.toNat ++ s.mem.read (s.pc.toNat + 1)) = none := by decide

theorem witness_StepFaultRecords : step State.reset = .fault (.invalidOpcode .noDecodeRule 0x0000#16 0x0200#16) :=
  rfl

theorem witness_StepFaultsDependOnlyOnPcMemoryIndexDepth :
    let s := fullStack.placeWord 0x2ABC#16
    let s' := ((s.setReg 0 7#8).setKey 3 true).setDt 9#8
    s.mode = .running ∧ s'.mode = .running ∧ s'.pc = s.pc ∧ s'.i = s.i ∧ s'.sp = s.sp ∧
    (∀ a, s'.mem.read a = s.mem.read a) ∧ step s = .fault (.stackOverflow 0x2ABC#16 0x0200#16) ∧ s ≠ s' :=
  ⟨rfl, rfl, rfl, rfl, rfl, fun _ => rfl, rfl, by decide⟩

theorem witness_InstructionsFaultExactly_traps :
    Traps (.op2NNN 0x300#12) fullStack ∧ Traps .op00EE State.reset ∧
    Traps (.opDXYN 0#4 0#4 15#4) (State.reset.setI 0x0FF2#16) ∧ Traps (.opFX33 0#4) (State.reset.setI 0x0FFE#16) ∧
    Traps (.opFX55 1#4) (State.reset.setI 0x0FFF#16) ∧ Traps (.opFX65 15#4) (State.reset.setI 0x0FF1#16) := by
  simp only [Traps]; decide

theorem witness_InstructionsFaultExactly_completes :
    ¬ Traps (.op2NNN 0x300#12) (1 |> fun k => { State.reset with sp := k }) ∧
    ¬ Traps .op00EE (1 |> fun k => { State.reset with sp := k }) ∧
    ¬ Traps (.opDXYN 0#4 0#4 15#4) (State.reset.setI 0x0FF1#16) ∧
    ¬ Traps (.opDXYN 0#4 0#4 0#4) (State.reset.setI 0xFFFF#16) ∧ ¬ Traps (.opFX33 0#4) (State.reset.setI 0x0FFD#16) ∧
    ¬ Traps (.opFX55 0#4) (State.reset.setI 0x0FFF#16) ∧ ¬ Traps (.opFX65 15#4) (State.reset.setI 0x0FF0#16) ∧
    ¬ Traps .op00E0 State.reset := by
  simp only [Traps]; decide

theorem witness_EveryInstructionSetsPcByTheTable_exec : ∃ t, exec (.op3XNN 0#4 0#8) State.reset = .next t := ⟨_, rfl⟩

theorem witness_EveryInstructionSetsPcByTheTable_captured :
    (waiting 3 [7, 2]).mode = .awaitingKey ∧ (nextOf (step (waiting 3 [7, 2]))).map State.mode = some .running := by
  decide

theorem witness_EveryInstructionSetsPcByTheTable_waiting :
    (waiting 3 []).mode = .awaitingKey ∧ (nextOf (step (waiting 3 []))).map State.mode = some .awaitingKey := by decide

theorem witness_EveryInstructionSetsPcByTheTable_fault : (applyEvent .step Session.start).2 =
    .raised (.invalidOpcode .noDecodeRule 0x0000#16 0x0200#16) := by decide

theorem witness_InstructionsWriteOnlyWhatTheirRulesName : ∃ t, exec (.opDXYN 0#4 1#4 5#4) State.reset = .next t :=
  ⟨_, rfl⟩

theorem witness_JumpsSetPc_past_the_top : State.reset.mode = .running ∧ (0xFFF#12).toNat = 0xFFF ∧
    ((State.reset.setReg 0 1#8).reg V0).toNat + (0xFFE#12).toNat > 0xFFE := by decide

theorem witness_CallPushesItsOwnAddress_completes : ({ State.reset with sp := 15 } : State).sp.val < 16 := by decide

theorem witness_CallPushesItsOwnAddress_overflow : fullStack.sp.val = 16 := by decide

theorem witness_ReturnResumesAfterTheCall_completes : (0 : Fin 16).val + 1 = ({ State.reset with sp := 1 } : State).sp.val ∧
    (15 : Fin 16).val + 1 = fullStack.sp.val := by decide

theorem witness_ReturnResumesAfterTheCall_past_the_top :
    let s := { State.reset with sp := 1, stack := State.reset.stack.set 0 0x0FFE#16 }
    (0 : Fin 16).val + 1 = s.sp.val ∧ s.mode = .running ∧
    (nextOf (exec .op00EE s)).map (fun t => decide (t.pc.toNat > 0xFFE)) = some true := by decide

theorem witness_ReturnResumesAfterTheCall_underflow : State.reset.sp.val = 0 := by decide

/-- The callee made a call of its own and it returned: the slot above the live ones is stale. -/
theorem witness_CallThenReturnRoundTrip : ∃ t, exec (.op2NNN 0x300#12) { State.reset with sp := 14 } = .next t ∧
    let t' := { t with pc := 0x0444#16, stack := t.stack.set 15 0x0333#16 }
    t'.sp = t.sp ∧ (∀ k : Fin 16, k.val < t.sp.val → t'.stack[k] = t.stack[k]) ∧ t'.stack ≠ t.stack :=
  ⟨_, rfl, by decide⟩

theorem witness_SeventeenthNestedCallOverflows : State.reset.sp.val = 0 ∧
    (List.replicate 16 (0x300#12 : Addr)).length ≤ 16 ∧ 17 ≤ (List.replicate 17 (0x300#12 : Addr)).length := by decide

theorem witness_SkipsOnRegisterValues : (v01 5#8 5#8).reg 0 = 5#8 ∧ (v01 5#8 6#8).reg 0 ≠ 6#8 ∧
    (v01 5#8 5#8).reg 0 = (v01 5#8 5#8).reg 1 ∧ (v01 5#8 6#8).reg 0 ≠ (v01 5#8 6#8).reg 1 := by decide

theorem witness_ShiftsByOne : (0 : RegId) ≠ VF ∧ (0xF#4 : RegId) = VF := by decide

theorem witness_FlagValuesAreZeroOrOne_alu :
    (Instr.op8XY4 0#4 1#4 ∈ [.op8XY4 0#4 1#4, .op8XY5 0#4 1#4, .op8XY6 0#4 1#4, .op8XY7 0#4 1#4, .op8XYE 0#4 1#4] ∧
      (0#4 : RegId) ≠ VF) ∧ ∃ t, exec (.op8XY4 0#4 1#4) (v01 0xFF#8 1#8) = .next t :=
  ⟨by decide, _, rfl⟩

theorem witness_FlagValuesAreZeroOrOne_draw : ∃ t, exec (.opDXYN 0xF#4 0xF#4 1#4) State.reset = .next t := ⟨_, rfl⟩

theorem witness_StoreDecimalDigits : (State.reset.setI 0x0FFD#16).base + 2 ≤ 0xFFF ∧
    (State.reset.setI 0x0FFE#16).base + 2 > 0xFFF := by decide

theorem witness_StoreRegisters : (State.reset.setI 0x0FF0#16).base + (0xF#4 : RegId).toNat ≤ 0xFFF ∧
    (State.reset.setI 0x0FF1#16).base + (0xF#4 : RegId).toNat > 0xFFF := by decide

theorem witness_LoadRegisters : (State.reset.setI 0x0FFF#16).base + (0#4 : RegId).toNat ≤ 0xFFF ∧
    (State.reset.setI 0x0FFF#16).base + (1#4 : RegId).toNat > 0xFFF := by decide

theorem witness_StoreIsSeenByTheNextFetch : 1 ≤ (1#4 : RegId).toNat ∧
    ∃ t, exec (.opFX55 1#4) (State.reset.setI 0x0FFE#16) = .next t := ⟨by decide, _, rfl⟩

theorem witness_DrawSpriteByXor_empty : (0#4 : Nibble).toNat = 0 ∧ ([] : List Byte).length = (0#4 : Nibble).toNat := by
  decide

theorem witness_DrawSpriteByXor_top :
    let s := State.reset.setI 0x0FF1#16
    s.base + (15#4 : Nibble).toNat - 1 ≤ 0xFFF ∧ (List.replicate 15 0#8).length = (15#4 : Nibble).toNat ∧
    ∀ r < (15#4 : Nibble).toNat, (List.replicate 15 0#8)[r]? = some (s.mem.read (s.base + r)) := by decide

/-- The state that draws one row 0xC0 at (10, 5), its cell (11, 5) on. -/
def oneRow : State := cellsOn [(11, 5)] (((data 0x300 [0xC0#8]).setReg 0 10#8).setReg 1 5#8)

theorem witness_DrawSpriteByXor_collision :
    (nextOf (exec (.opDXYN 0#4 1#4 1#4) oneRow)).map (fun t => (oneRow.fb.cell (11, 5), t.fb.cell (11, 5))) =
      some (true, false) := by decide

theorem reset_cell (p : Pixel) : State.reset.fb.cell p = false := by simp [State.reset, Framebuffer.cell]

theorem witness_DrawSpriteByXor_no_collision :
    ∃ t, exec (.opDXYN 0#4 1#4 1#4) State.reset = .next t ∧
      ∀ p : Pixel, State.reset.fb.cell p = true → t.fb.cell p = true :=
  ⟨_, rfl, fun p h => by simp [reset_cell] at h⟩

theorem witness_DrawSpriteOutOfRangeFaults : 1 ≤ (15#4 : Nibble).toNat ∧
    (State.reset.setI 0x0FF2#16).base + (15#4 : Nibble).toNat - 1 > 0xFFF := by decide

theorem witness_DrawingTwiceRestoresTheScreen :
    (0#4 : RegId) ≠ VF ∧ (1#4 : RegId) ≠ VF ∧ ∃ t, exec (.opDXYN 0#4 1#4 1#4) State.reset = .next t ∧
    (∃ p : Pixel, t.fb.cell p ≠ State.reset.fb.cell p) ∧
    (∀ p : Pixel, t.fb.cell p ≠ State.reset.fb.cell p → State.reset.fb.cell p = false) :=
  ⟨by decide, by decide, _, rfl, ⟨(0, 0), by decide⟩, fun p _ => reset_cell p⟩

theorem witness_SkipsOnKeys_down : ∃ k : Fin 16, k.val = ((key5 0x05#8).reg 2).toNat ∧ (key5 0x05#8).keys[k] = true :=
  ⟨5, by decide⟩

theorem witness_SkipsOnKeys_not_down :
    (∀ k : Fin 16, k.val = ((key5 0x04#8).reg 2).toNat → (key5 0x04#8).keys[k] = false) ∧
    (∀ k : Fin 16, k.val = ((key5 0x10#8).reg 2).toNat → (key5 0x10#8).keys[k] = false) := by decide

theorem witness_AwaitingKeyPollCapturesLowestKey_captured :
    (waiting 3 [15, 7]).mode = .awaitingKey ∧ (waiting 3 [15, 7]).keys[(7 : Fin 16)] = true ∧
    ∀ j : Fin 16, j < 7 → (waiting 3 [15, 7]).keys[j] = false := by decide

theorem witness_AwaitingKeyPollCapturesLowestKey_none :
    (waiting 3 []).mode = .awaitingKey ∧ ∀ k : Fin 16, (waiting 3 []).keys[k] = false := by decide

theorem witness_SoundTimerIsSetAndNeverRead : ∃ t, exec (.opFX07 1#4) (State.reset.setSt 7#8) = .next t := ⟨_, rfl⟩

theorem witness_RandomByteMasked : (1 : Nat) < 8 ∧ (0x0D#8 : Byte).getLsbD 1 = false := by decide

theorem witness_TickCountsEachTimerDown : (State.reset.setDt 1#8).dt ≠ 0#8 ∧ State.reset.dt = 0#8 ∧
    (State.reset.setSt 0xFF#8).st ≠ 0#8 ∧ State.reset.st = 0#8 := by decide

theorem witness_KeyEventsSetAndClear : (0x0F#8 : Byte).toNat ≤ 0xF ∧ (0x10#8 : Byte).toNat > 0xF := by decide

theorem witness_LoadProgramCopiesTheImage : (List.replicate 0xE00 (1#8 : Byte)).length ≤ 0xE00 ∧
    (List.replicate 0xE01 (1#8 : Byte)).length > 0xE00 := by
  simp only [List.length_replicate]; decide

theorem witness_LoadProgramCopiesTheImage_byte : ([0x12#8, 0x00#8] : List Byte)[1]? = some 0x00#8 := by decide

theorem witness_RedrawStaysSetUntilTaken :
    (⟨State.reset.setRedraw true, true⟩ : Session).core.redraw = true ∧ Event.step ≠ .reset ∧
    Event.step ≠ .takeRedraw := by decide

theorem witness_FaultingEventsChangeNothing : (applyEvent .step Session.start).2 =
      .raised (.invalidOpcode .noDecodeRule 0x0000#16 0x0200#16) ∧
    (applyEvent (.keyPress 0x10#8) Session.start).2 = .raised (.invalidKey 0x10#8) := by decide

theorem witness_LoadOnlyBeforeTheFirstStep_refused :
    Event.reset ∉ [Event.tick, .keyPress 5#8, .keyRelease 0x10#8, .takeRedraw, .step, .loadProgram []] := by decide

theorem witness_LoadOnlyBeforeTheFirstStep_accepted :
    Event.step ∉ [Event.tick, .keyPress 5#8, .loadProgram [1#8], .takeRedraw] ∧
    (List.replicate 0xE00 (1#8 : Byte)).length ≤ 0xE00 := by
  simp only [List.length_replicate]; decide

theorem witness_ResetValues : 0x50 ≤ 0xFFF ∧ (0x04B, [0xF0#8, 0x80#8, 0xF0#8, 0x80#8, 0x80#8]) ∈ glyphTable := by decide

theorem witness_OperandsAreTheFieldsOfTheWord : decodeWord 0xD5A7#16 = some (.opDXYN 0x5#4 0xA#4 0x7#4) := by decide

/-- The invariant holds where it constrains most: a byte stored, a key awaited at the last fetchable address, and a live
stack slot there too. -/
def invTop : State :=
  { ((waiting 3 [7]).setPc 0x0FFE#16).setMem (Memory.write [] 0x0FFF 1#8) with
    sp := 1, stack := State.reset.stack.set 0 0x0FFE#16 }

theorem witness_StepKeepsInvariant : invTop.Inv ∧ ∃ t, step invTop = .next t :=
  ⟨⟨by decide, by decide, by decide, by decide⟩, _, rfl⟩

theorem witness_EventsKeepInvariant : (⟨invTop, true⟩ : Session).core.Inv :=
  ⟨by decide, by decide, by decide, by decide⟩

end Sys2Proof.Tests
end

section
/-! The rules of the operations that the statements about the state (10_state.md) need: one lemma per operation, saying
what it leaves as it was, and one per instruction that does not complete in every state, saying when it does. -/

namespace Sys2Proof.Machine

/-! ### Frames -/

theorem SameExcept.refl (parts : List Part) (s : State) : SameExcept parts s s := by
  intro p _
  cases p <;> simp [Part.same]

/-- A write of pc keeps every frame that leaves pc free. -/
theorem SameExcept.setPc {parts : List Part} {s t : State} (h : SameExcept parts s t) (w : Word)
    (hpc : Part.pc ∈ parts) : SameExcept parts s (t.setPc w) := by
  intro p hp
  cases p with
  | pc => exact absurd hpc hp
  | _ => exact h _ hp

/-- A write of REDRAW keeps every frame that leaves REDRAW free. -/
theorem SameExcept.setRedraw {parts : List Part} {s t : State} (h : SameExcept parts s t) (b : Bool)
    (hredraw : Part.redraw ∈ parts) : SameExcept parts s (t.setRedraw b) := by
  intro p hp
  cases p with
  | redraw => exact absurd hredraw hp
  | _ => exact h _ hp

/-- A push keeps every frame that leaves the stack free. -/
theorem SameExcept.push? {parts : List Part} {s t u : State} {a : Word} (h : SameExcept parts s t)
    (hpush : t.push? a = some u) (hstack : Part.stack ∈ parts) : SameExcept parts s u := by
  obtain ⟨_, rfl⟩ := State.push?_eq_some.mp hpush
  intro p hp
  cases p with
  | stack => exact absurd hstack hp
  | _ => exact h _ hp

/-- A pop keeps every frame that leaves the stack free. -/
theorem SameExcept.pop? {parts : List Part} {s t u : State} {a : Word} (h : SameExcept parts s t)
    (hpop : t.pop? = some (a, u)) (hstack : Part.stack ∈ parts) : SameExcept parts s u := by
  obtain ⟨_, _, rfl⟩ := State.pop?_eq_some.mp hpop
  intro p hp
  cases p with
  | stack => exact absurd hstack hp
  | _ => exact h _ hp

/-! ### Words and addresses -/

/-- An encoded address format as the encoding rules write it, `OP<<12 | NNN` (R71). -/
theorem encodeAddr_eq_or (op : Nibble) (nnn : Addr) :
    encodeAddr op nnn = op.setWidth 16 <<< 12 ||| nnn.setWidth 16 :=
  (BitVec.setWidth_eq (op ++ nnn)).symm.trans BitVec.setWidth_append_eq_shiftLeft_setWidth_or

/-- An address immediate keeps its value when it is extended to 16 bits (R73). -/
theorem toNat_zext16_addr (nnn : Addr) : (zext16 nnn).toNat = nnn.toNat :=
  BitVec.toNat_setWidth_of_le (by decide)

/-! ### The call stack -/

/-- The pop of the newest live slot k: its address, and SP back at k (R28). -/
theorem State.pop?_of_newest {s : State} {k : Fin 16} (hk : k.val + 1 = s.sp.val) :
    s.pop? = some (s.stack[k], { s with sp := k.castSucc }) := by
  have hslot : s.sp.val - 1 = k.val := by omega
  refine State.pop?_eq_some.mpr ⟨by omega, ?_, ?_⟩
  · simp [hslot]
  · simp [hslot, Fin.ext_iff]

/-- A call completes exactly when its push does, and then pc is its target (R102). -/
theorem exec2NNN_eq_next {nnn : Addr} {s t : State} :
    exec2NNN nnn s = .next t ↔ ∃ u, s.push? s.pc = some u ∧ t = u.setPc (zext16 nnn) := by
  unfold exec2NNN takeFault
  cases s.push? s.pc <;> simp [eq_comm]

/-- A call with a full stack (R183). -/
theorem exec2NNN_of_full {s : State} (nnn : Addr) (h : s.sp.val = 16) :
    exec2NNN nnn s = .fault (.stackOverflow (encode (.op2NNN nnn)) s.pc) := by
  simp [exec2NNN, takeFault, State.push?_eq_none.mpr h]

/-- A return completes exactly when its pop does, and then pc is two past the popped address (R100). -/
theorem exec00EE_eq_next {s t : State} :
    exec00EE s = .next t ↔ ∃ a u, s.pop? = some (a, u) ∧ t = u.setPc (a + 2#16) := by
  unfold exec00EE takeFault
  cases s.pop? <;> simp [Prod.ext_iff, eq_comm]

/-- A return with an empty stack (R184). -/
theorem exec00EE_of_empty {s : State} (h : s.sp.val = 0) :
    exec00EE s = .fault (.stackUnderflow (encode .op00EE) s.pc) := by
  simp [exec00EE, takeFault, State.pop?_eq_none.mpr h]

/-! ### Memory instructions -/

/-- A draw completes exactly when its reads are in bounds (R151). -/
theorem execDXYN_eq_next {x y : RegId} {n : Nibble} {s t : State} :
    execDXYN x y n s = .next t ↔ ∃ sprite, s.mem.readBytes? s.base n.toNat = some sprite ∧
      t = (((s.setFb (drawSprite s.fb (s.reg x).toNat (s.reg y).toNat sprite).1).setReg VF
        (flagOf (drawSprite s.fb (s.reg x).toNat (s.reg y).toNat sprite).2)).setRedraw true).advance := by
  unfold execDXYN takeFault
  cases s.mem.readBytes? s.base n.toNat <;> simp [eq_comm]

/-- A register load completes exactly when its reads are in bounds (R145). -/
theorem execFX65_eq_next {x : RegId} {s t : State} :
    execFX65 x s = .next t ↔
      ∃ bs, s.mem.readBytes? s.base (x.toNat + 1) = some bs ∧ t = (s.setRegs bs).advance := by
  unfold execFX65 takeFault
  cases s.mem.readBytes? s.base (x.toNat + 1) <;> simp [eq_comm]

/-! ### The step -/

/-- A fetch above 0xFFE faults, with the word 0x0000 (R181, R182). -/
theorem step_of_pc_out_of_range {s : State} (hmode : s.mode = .running) (hpc : s.pc.toNat > 0xFFE) :
    step s = .fault (.invalidOpcode .addressOutOfRange 0x0000#16 s.pc) := by
  simp [step, hmode, State.fetch, State.fetchWord?_eq_none.mpr hpc]

/-- The step of a waiting engine: the least key down is captured, or nothing changes (R163). -/
theorem step_of_awaitingKey {s t : State} (hmode : s.mode = .awaitingKey) (h : step s = .next t) :
    (∃ k, t = (s.setReg s.wreg (BitVec.ofNat 8 k)).advance.setMode .running) ∨ t = s := by
  simp only [step, hmode, awaitingKeyPoll] at h
  cases hkey : s.lowestKey? with
  | some k => exact .inl ⟨k, by simpa [hkey] using h.symm⟩
  | none => exact .inr (by simpa [hkey] using h.symm)

/-- An event whose own result is never a fault raises one only when its outcome on the core is that fault, and then the core
is as it was (R186). -/
theorem Session.after_eq_raised {e : Session} {window : Bool} {done : State → Response} {r : Result} {f : Fault}
    (hdone : ∀ s, done s ≠ .raised f) (h : (e.after window done r).2 = .raised f) :
    r = .fault f ∧ (e.after window done r).1.core = e.core := by
  cases r with
  | next s => exact absurd h (hdone s)
  | fault g => exact ⟨congrArg _ (Response.raised.inj h), rfl⟩
  | refused g => cases h

end Sys2Proof.Machine
end

section
/-! The statements about the state: pc (R24), the call stack (R27, R28) and the redraw signal (R44). -/

namespace Sys2Proof.Machine

/-! ### pc -/

/-- An instruction that completes leaves the pc of R24's table: the skips by their condition, a return by the popped slot, a
call by its target, a memory instruction whose accesses are in bounds two further, and every other one by its own
assignment of pc. -/
theorem exec_next_pc {i : Instr} {s t : State} (h : exec i s = .next t) : t.pc = pcAfter i s := by
  cases i with
  | op3XNN | op4XNN | op5XY0 | op9XY0 | opEX9E | opEXA1 =>
    cases h
    simp [pcAfter]
  | op00EE =>
    obtain ⟨a, u, hpop, rfl⟩ := exec00EE_eq_next.mp h
    obtain ⟨hsp, rfl, rfl⟩ := State.pop?_eq_some.mp hpop
    have hslot : s.sp.val - 1 < 16 := by omega
    simp [pcAfter, hslot]
  | op2NNN =>
    obtain ⟨u, -, rfl⟩ := exec2NNN_eq_next.mp h
    rfl
  | opDXYN =>
    obtain ⟨sprite, -, rfl⟩ := execDXYN_eq_next.mp h
    rfl
  | opFX65 =>
    obtain ⟨bs, -, rfl⟩ := execFX65_eq_next.mp h
    rfl
  | opFX33 | opFX55 =>
    obtain ⟨-, rfl⟩ := storeAtI_eq_next.mp h
    rfl
  | _ =>
    cases h
    rfl

/-- Settles O12: the table for an instruction, the poll's two outcomes, and that a fault leaves the core as it was. -/
theorem everyInstructionSetsPcByTheTable : Obligations.EveryInstructionSetsPcByTheTable := by
  refine ⟨fun i s t => exec_next_pc, fun s t hmode h => ?_, fun e f h => ?_⟩
  · obtain ⟨k, rfl⟩ | rfl := step_of_awaitingKey hmode h
    · simp
    · simp [hmode]
  · obtain ⟨-, hcore⟩ := Session.after_eq_raised (by simp) h
    exact congrArg State.pc hcore

/-! ### The call stack -/

/-- Settles O15: with SP below 16 the push answers, with SP = 16 it does not. -/
theorem callPushesItsOwnAddress : Obligations.CallPushesItsOwnAddress := by
  intro nnn s
  refine ⟨encodeAddr_eq_or 0x2#4 nnn, fun hsp => ?_, fun hfull => ⟨_, _, exec2NNN_of_full nnn hfull⟩⟩
  have hpush := State.push?_eq_some (a := s.pc).mpr ⟨hsp, rfl⟩
  refine ⟨_, exec2NNN_eq_next.mpr ⟨_, hpush, rfl⟩, rfl, toNat_zext16_addr nnn, fun k => ?_, ?_⟩
  · simp [Vector.getElem_set, eq_comm]
  · exact ((SameExcept.refl _ s).push? hpush (by simp)).setPc _ (by simp)

/-- Settles O16: with slot k the newest live one the pop gives its address, with SP = 0 there is no pop. -/
theorem returnResumesAfterTheCall : Obligations.ReturnResumesAfterTheCall := by
  intro s
  refine ⟨rfl, fun k hk => ?_, fun hempty => ⟨_, _, exec00EE_of_empty hempty⟩⟩
  have hpop := State.pop?_of_newest hk
  refine ⟨_, exec00EE_eq_next.mpr ⟨_, _, hpop, rfl⟩, rfl, rfl, fun _ => rfl, ?_, fun hmode hpc => ?_⟩
  · exact ((SameExcept.refl _ s).pop? hpop (by simp)).setPc _ (by simp)
  · exact ⟨_, step_of_pc_out_of_range hmode hpc⟩

/-! ### The redraw signal -/

/-- Settles O46: the event is one write of REDRAW, framed by `SameExcept.setRedraw`. -/
theorem takeRedrawReturnsAndClears : Obligations.TakeRedrawReturnsAndClears :=
  fun s => ⟨rfl, rfl, (SameExcept.refl _ s).setRedraw false (by simp)⟩

end Sys2Proof.Machine
end

section
/-! Decoding against the encoder and the opcode table (30_encoding.md section 2): what a word decodes to encodes it again,
so it has the mask and match of its row; and a word with a row's match decodes to an instruction of that row. -/

namespace Sys2Proof.Laws.TableRow

/-- The per-instruction family TableRow, as one statement about every instruction. -/
theorem forall_statement : ∀ i : Instr, Statement i
  | .op00E0 => op00E0
  | .op00EE => op00EE
  | .op1NNN nnn => op1NNN nnn
  | .op2NNN nnn => op2NNN nnn
  | .op3XNN x nn => op3XNN x nn
  | .op4XNN x nn => op4XNN x nn
  | .op5XY0 x y => op5XY0 x y
  | .op6XNN x nn => op6XNN x nn
  | .op7XNN x nn => op7XNN x nn
  | .op8XY0 x y => op8XY0 x y
  | .op8XY1 x y => op8XY1 x y
  | .op8XY2 x y => op8XY2 x y
  | .op8XY3 x y => op8XY3 x y
  | .op8XY4 x y => op8XY4 x y
  | .op8XY5 x y => op8XY5 x y
  | .op8XY6 x y => op8XY6 x y
  | .op8XY7 x y => op8XY7 x y
  | .op8XYE x y => op8XYE x y
  | .op9XY0 x y => op9XY0 x y
  | .opANNN nnn => opANNN nnn
  | .opBNNN nnn => opBNNN nnn
  | .opCXNN x nn => opCXNN x nn
  | .opDXYN x y n => opDXYN x y n
  | .opEX9E x => opEX9E x
  | .opEXA1 x => opEXA1 x
  | .opFX07 x => opFX07 x
  | .opFX0A x => opFX0A x
  | .opFX15 x => opFX15 x
  | .opFX18 x => opFX18 x
  | .opFX1E x => opFX1E x
  | .opFX29 x => opFX29 x
  | .opFX33 x => opFX33 x
  | .opFX55 x => opFX55 x
  | .opFX65 x => opFX65 x

end Sys2Proof.Laws.TableRow

namespace Sys2Proof

/-! ### What a word decodes to encodes it again -/

theorem encode_of_decodeFixed {w : Word} {i : Instr} (h : decodeFixed w = some i) : encode i = w := by
  unfold decodeFixed at h
  split at h <;> cases h <;> rfl

theorem encode_of_decodeAlu {x y : RegId} {n : Nibble} {i : Instr} (h : decodeAlu x y n = some i) :
    encode i = encodeRegReg 0x8#4 x y n := by
  unfold decodeAlu at h
  split at h <;> cases h <;> rfl

theorem encode_of_decodeKey {x : RegId} {nn : Byte} {i : Instr} (h : decodeKey x nn = some i) :
    encode i = encodeRegByte 0xE#4 x nn := by
  unfold decodeKey at h
  split at h <;> cases h <;> rfl

theorem encode_of_decodeMisc {x : RegId} {nn : Byte} {i : Instr} (h : decodeMisc x nn = some i) :
    encode i = encodeRegByte 0xF#4 x nn := by
  unfold decodeMisc at h
  split at h <;> cases h <;> rfl

/-- The word is put together again from its fields, in the format its primary opcode selects (R72); arm h_k of the split is
primary opcode k - 1, and the last arm answers none. -/
theorem encode_of_decodeWord {w : Word} {i : Instr} (h : decodeWord w = some i) : encode i = w := by
  have haddr := encodeAddr_fields w
  have hregByte := encodeRegByte_fields w
  have hregReg := encodeRegReg_fields w
  unfold decodeWord at h
  split at h
  case h_17 => cases h
  all_goals rename_i hop; rw [hop] at haddr hregByte hregReg
  case h_1 => exact encode_of_decodeFixed h
  case h_2 | h_3 | h_11 | h_12 => cases h; exact haddr
  case h_4 | h_5 | h_7 | h_8 | h_13 => cases h; exact hregByte
  case h_6 | h_10 =>
    obtain ⟨hn, hi⟩ := Option.ite_none_right_eq_some.mp h
    cases hi
    rwa [hn] at hregReg
  case h_9 => exact (encode_of_decodeAlu h).trans hregReg
  case h_14 => cases h; exact hregReg
  case h_15 => exact (encode_of_decodeKey h).trans hregByte
  case h_16 => exact (encode_of_decodeMisc h).trans hregByte

/-! ### The opcode table -/

/-- An instruction's encoded word has its row's match under its row's mask (R75). -/
theorem encode_and_mask (i : Instr) : encode i &&& i.row.mask = i.row.pattern :=
  beq_iff_eq.mp (Laws.TableRow.forall_statement i (by cases i <;> rfl)).1

/-- Every row of the table is the row of an instruction (R75). -/
theorem exists_row_eq {r : Row} (h : r ∈ opcodeTable) : ∃ i : Instr, i.row = r := by
  obtain ⟨i, -, hi⟩ := List.mem_map.mp h
  exact ⟨i, hi⟩

/-- A masked match fixes every field that the mask keeps whole. -/
theorem extractLsb'_eq_of_and_mask {w mask pattern : Word} (start len : Nat) (h : w &&& mask = pattern)
    (hmask : mask.extractLsb' start len = BitVec.allOnes len) :
    w.extractLsb' start len = pattern.extractLsb' start len := by
  rw [← h, BitVec.extractLsb'_and, hmask, BitVec.and_allOnes]

/-- A word that matches an instruction's row decodes to an instruction of that row: the mask keeps the primary opcode, and
the low nibble or the low byte where the decoder looks at them (R74). -/
theorem exists_decodeWord_of_and_mask {w : Word} {i : Instr} (h : w &&& i.row.mask = i.row.pattern) :
    ∃ j, decodeWord w = some j ∧ j.row = i.row := by
  cases i with
  | op00E0 | op00EE =>
    obtain rfl := BitVec.and_allOnes.symm.trans h
    exact ⟨_, rfl, rfl⟩
  | op5XY0 | op9XY0 | op8XY0 | op8XY1 | op8XY2 | op8XY3 | op8XY4 | op8XY5 | op8XY6 | op8XY7 | op8XYE =>
    simp only [Instr.row] at h
    have hop := extractLsb'_eq_of_and_mask 12 4 h (by decide)
    have hn := extractLsb'_eq_of_and_mask 0 4 h (by decide)
    simp [decodeWord, decodeAlu, opField, nField, hop, hn, Instr.row]
  | opEX9E | opEXA1 | opFX07 | opFX0A | opFX15 | opFX18 | opFX1E | opFX29 | opFX33 | opFX55 | opFX65 =>
    simp only [Instr.row] at h
    have hop := extractLsb'_eq_of_and_mask 12 4 h (by decide)
    have hnn := extractLsb'_eq_of_and_mask 0 8 h (by decide)
    simp [decodeWord, decodeKey, decodeMisc, opField, nnField, hop, hnn, Instr.row]
  | _ =>
    simp only [Instr.row] at h
    have hop := extractLsb'_eq_of_and_mask 12 4 h (by decide)
    simp [decodeWord, opField, hop, Instr.row]

/-- A word matches a row of the table exactly when it decodes to an instruction of that row (R74). -/
theorem and_mask_eq_pattern_iff {w : Word} {r : Row} (hr : r ∈ opcodeTable) :
    w &&& r.mask = r.pattern ↔ ∃ i, decodeWord w = some i ∧ i.row = r := by
  constructor
  · obtain ⟨i, rfl⟩ := exists_row_eq hr
    exact exists_decodeWord_of_and_mask
  · rintro ⟨i, hi, rfl⟩
    rw [← encode_of_decodeWord hi]
    exact encode_and_mask i

/-- A word that matches no row does not decode (R74). -/
theorem decodeWord_eq_none_of_no_row {w : Word} (h : ∀ r, r ∈ opcodeTable → w &&& r.mask ≠ r.pattern) :
    decodeWord w = none := by
  refine Option.eq_none_iff_forall_ne_some.mpr fun i hi => ?_
  have hrow := row_mem_opcodeTable i
  exact h i.row hrow ((and_mask_eq_pattern_iff hrow).mpr ⟨i, hi, rfl⟩)

end Sys2Proof

namespace Sys2Proof.Machine

/-- The step on a fetched word that does not decode faults with that word (R74). -/
theorem step_of_decodeWord_eq_none {s : State} (hmode : s.mode = .running) {w : Word} (hfetch : s.fetchWord? = some w)
    (hdecode : decodeWord w = none) : step s = .fault (.invalidOpcode .noDecodeRule w s.pc) := by
  simp [step, hmode, State.fetch, hfetch, hdecode]

/-- Settles O3: a word matches exactly the row of the instruction it decodes to, so two rows it matches are that one, and a
word that matches none does not decode. -/
theorem decodeFindsTheOneMatchingRow : Obligations.DecodeFindsTheOneMatchingRow := by
  refine ⟨fun w r => and_mask_eq_pattern_iff, fun w r r' hr hr' h h' => ?_, fun w s hnone hmode hpc hw => ?_⟩
  · obtain ⟨i, hi, rfl⟩ := (and_mask_eq_pattern_iff hr).mp h
    obtain ⟨j, hj, rfl⟩ := (and_mask_eq_pattern_iff hr').mp h'
    exact congrArg Instr.row (Option.some.inj (hi.symm.trans hj))
  · have hfetch := State.fetchWord?_eq_some.mpr ⟨hpc, hw.symm⟩
    exact step_of_decodeWord_eq_none hmode hfetch (decodeWord_eq_none_of_no_row hnone)

end Sys2Proof.Machine
end

section
/-! The statement about the two jumps (R101, R103): each is one write of pc, and a target past the last word of memory faults
at the next fetch. -/

namespace Sys2Proof.Machine

/-- V0 plus the address immediate, formed in 16 bits, is the sum of the two values: at most 0x10FE, it does not wrap
(R103). -/
theorem toNat_zext16_byte_add_addr (b : Byte) (nnn : Addr) :
    (zext16 b + zext16 nnn).toNat = b.toNat + nnn.toNat := by
  have hbyte : (zext16 b).toNat = b.toNat := BitVec.toNat_setWidth_of_le (by decide)
  have hb := b.isLt
  have hnnn := nnn.isLt
  rw [BitVec.toNat_add_of_lt (by rw [hbyte, toNat_zext16_addr]; omega), hbyte, toNat_zext16_addr]

/-- Settles O14: each jump writes its target to pc and nothing else; the two differ only in the target's value. -/
theorem jumpsSetPc : Obligations.JumpsSetPc := by
  intro nnn s
  have hsum := toNat_zext16_byte_add_addr (s.reg V0) nnn
  have hframe (w : Word) : SameExcept [.pc] s (s.setPc w) := (SameExcept.refl _ s).setPc w (by simp)
  refine ⟨⟨encodeAddr_eq_or 0x1#4 nnn, _, rfl, toNat_zext16_addr nnn, hframe _, fun hmode htop => ?_⟩,
    ⟨encodeAddr_eq_or 0xB#4 nnn, _, rfl, hsum, hframe _, fun hmode htop => ?_⟩⟩
  · have htarget : (zext16 nnn).toNat > 0xFFE := by rw [toNat_zext16_addr, htop]; decide
    exact ⟨_, step_of_pc_out_of_range hmode htarget⟩
  · have htarget : (zext16 (s.reg V0) + zext16 nnn).toNat > 0xFFE := hsum ▸ htop
    exact ⟨_, step_of_pc_out_of_range hmode htarget⟩

end Sys2Proof.Machine
end

section
/-! The statement about the four register skips (R110 to R113): each is one conditional skip, `State.skipIf`, on its own test
of two bytes. -/

namespace Sys2Proof.Machine

/-! ### The two register formats of the encoding rules (R71) -/

/-- An encoded register and byte format as the encoding rules write it, `OP<<12 | X<<8 | NN`. -/
theorem encodeRegByte_eq_or (op : Nibble) (x : RegId) (nn : Byte) :
    encodeRegByte op x nn = op.setWidth 16 <<< 12 ||| xAt8 x ||| nn.setWidth 16 := by
  have hlow : (x ++ nn).setWidth 16 = xAt8 x ||| nn.setWidth 16 := BitVec.setWidth_append_eq_shiftLeft_setWidth_or
  rw [BitVec.or_assoc, ← hlow]
  exact encodeAddr_eq_or op (x ++ nn)

/-- An encoded two-register format as the encoding rules write it, its fixed nibbles OP and N first:
`OP<<12 | N | X<<8 | Y<<4`. -/
theorem encodeRegReg_eq_or (op : Nibble) (x y : RegId) (n : Nibble) :
    encodeRegReg op x y n = op.setWidth 16 <<< 12 ||| n.setWidth 16 ||| xAt8 x ||| yAt4 y := by
  have hlow : (y ++ n).setWidth 16 = yAt4 y ||| n.setWidth 16 := BitVec.setWidth_append_eq_shiftLeft_setWidth_or
  have hbyte : encodeRegReg op x y n = op.setWidth 16 <<< 12 ||| xAt8 x ||| (y ++ n).setWidth 16 :=
    encodeRegByte_eq_or op x (y ++ n)
  rw [hbyte, hlow]
  ac_rfl

/-! ### The conditional skip -/

/-- A conditional skip writes pc alone. -/
theorem sameExcept_skipIf (s : State) (c : Bool) : SameExcept [.pc] s (s.skipIf c) :=
  (SameExcept.refl _ s).setPc _ (by simp)

/-- An instruction that is a conditional skip advances pc by 4 where its test holds and by 2 where it fails. -/
theorem exists_next_of_exec_eq_skipIf {i : Instr} {s : State} {c : Bool} {skips stays : Prop}
    (hexec : exec i s = .next (s.skipIf c)) (hskips : skips → c = true) (hstays : stays → c = false) :
    ∃ t, exec i s = .next t ∧ (skips → t.pc = s.pc + 4#16) ∧ (stays → t.pc = s.pc + 2#16) ∧ SameExcept [.pc] s t := by
  refine ⟨_, hexec, fun h => ?_, fun h => ?_, sameExcept_skipIf s c⟩
  · simp [hskips h]
  · simp [hstays h]

/-- Settles O19: the four skips differ in the test alone, equality or inequality of the two bytes. -/
theorem skipsOnRegisterValues : Obligations.SkipsOnRegisterValues := by
  intro x y nn s
  refine ⟨⟨encodeRegByte_eq_or 0x3#4 x nn, ?_⟩, ⟨encodeRegByte_eq_or 0x4#4 x nn, ?_⟩,
    ⟨encodeRegReg_eq_or 0x5#4 x y 0x0#4, ?_⟩, ⟨encodeRegReg_eq_or 0x9#4 x y 0x0#4, ?_⟩⟩
  · exact exists_next_of_exec_eq_skipIf rfl beq_iff_eq.mpr beq_eq_false_iff_ne.mpr
  · exact exists_next_of_exec_eq_skipIf rfl bne_iff_ne.mpr bne_eq_false_iff_eq.mpr
  · exact exists_next_of_exec_eq_skipIf rfl beq_iff_eq.mpr beq_eq_false_iff_ne.mpr
  · exact exists_next_of_exec_eq_skipIf rfl bne_iff_ne.mpr bne_eq_false_iff_eq.mpr

end Sys2Proof.Machine
end

section
/-! The statements about the loads, the add immediate and the bitwise operations (R120 to R125): each is one write of V[X],
`State.setReg`, and then the usual advance of pc; they differ only in the byte written. -/

namespace Sys2Proof.Machine

/-! ### The frame of a register write -/

/-- A write of a register keeps every frame that leaves the registers free. -/
theorem SameExcept.setReg {parts : List Part} {s t : State} (h : SameExcept parts s t) (x : RegId) (b : Byte)
    (hregs : Part.regs ∈ parts) : SameExcept parts s (t.setReg x b) := by
  intro p hp
  cases p with
  | regs => exact absurd hregs hp
  | _ => exact h _ hp

/-- A write of a listed register keeps the frame of the other registers. -/
theorem RegsSameExcept.setReg {regs : List RegId} {s t : State} (h : RegsSameExcept regs s t) {x : RegId} (b : Byte)
    (hx : x ∈ regs) : RegsSameExcept regs s (t.setReg x b) := by
  intro r hr
  have hne : r ≠ x := fun heq => hr (heq ▸ hx)
  rw [State.reg_setReg_of_ne t b hne]
  exact h r hr

/-- A write of V[X], then the advance of pc, is an instruction's usual end with V[X] as the only register written. -/
theorem advanced_setReg_advance (s : State) (x : RegId) (b : Byte) : Advanced [] [x] s (s.setReg x b).advance := by
  have hparts : SameExcept [.pc, .regs] s (s.setReg x b) := (SameExcept.refl _ s).setReg x b (by simp)
  have hregs : RegsSameExcept [x] s (s.setReg x b) :=
    RegsSameExcept.setReg (fun _ _ => rfl) b (List.mem_singleton_self x)
  exact ⟨rfl, hparts.setPc _ (by simp), hregs⟩

/-- What such an instruction leaves in V[X] is the byte it wrote there. -/
theorem reg_setReg_advance_self (s : State) (x : RegId) (b : Byte) : (s.setReg x b).advance.reg x = b :=
  State.reg_setReg_self s x b

/-! ### The statements -/

/-- Settles O20: the byte written is the immediate for 6XNN and V[Y] for 8XY0. -/
theorem loadImmediateAndCopy : Obligations.LoadImmediateAndCopy := by
  intro x y nn s
  refine ⟨⟨encodeRegByte_eq_or 0x6#4 x nn, _, rfl, ?_, advanced_setReg_advance s x nn⟩,
    ⟨encodeRegReg_eq_or 0x8#4 x y 0x0#4, _, rfl, ?_, advanced_setReg_advance s x (s.reg y)⟩⟩
  · exact reg_setReg_advance_self s x nn
  · exact reg_setReg_advance_self s x (s.reg y)

/-- Settles O21: the byte written is a sum of two bytes, and that sum wraps modulo 256. -/
theorem addImmediateWrapsWithoutFlag : Obligations.AddImmediateWrapsWithoutFlag := by
  intro x nn s
  refine ⟨encodeRegByte_eq_or 0x7#4 x nn, _, rfl, ?_, advanced_setReg_advance s x _⟩
  rw [reg_setReg_advance_self]
  exact BitVec.toNat_add (s.reg x) nn

/-- Settles O22: the byte written is the OR, AND or XOR of the two registers, each of which acts bit by bit. -/
theorem bitwiseOperationsWriteNoFlag : Obligations.BitwiseOperationsWriteNoFlag := by
  intro x y s
  refine ⟨⟨encodeRegReg_eq_or 0x8#4 x y 0x1#4, _, rfl, fun b _ => ?_, advanced_setReg_advance s x _⟩,
    ⟨encodeRegReg_eq_or 0x8#4 x y 0x2#4, _, rfl, fun b _ => ?_, advanced_setReg_advance s x _⟩,
    ⟨encodeRegReg_eq_or 0x8#4 x y 0x3#4, _, rfl, fun b _ => ?_, advanced_setReg_advance s x _⟩⟩
  · rw [reg_setReg_advance_self, BitVec.getLsbD_or]
  · rw [reg_setReg_advance_self, BitVec.getLsbD_and]
  · rw [reg_setReg_advance_self, BitVec.getLsbD_xor]

end Sys2Proof.Machine
end

section
/-! The statements about the index register and memory (R140, R143 to R145): `ANNN` is one write of I; `FX33` and `FX55` are
one store through I, `storeAtI`, and differ only in the bytes stored; `FX65` is one checked read of memory into the
registers. -/

namespace Sys2Proof.Machine

/-! ### Frames -/

/-- A write of I keeps every frame that leaves I free. -/
theorem SameExcept.setI {parts : List Part} {s t : State} (h : SameExcept parts s t) (w : Word)
    (hindex : Part.index ∈ parts) : SameExcept parts s (t.setI w) := by
  intro p hp
  cases p with
  | index => exact absurd hindex hp
  | _ => exact h _ hp

/-- A write of memory keeps every frame that leaves memory free. -/
theorem SameExcept.setMem {parts : List Part} {s t : State} (h : SameExcept parts s t) (m : Memory)
    (hmem : Part.memory ∈ parts) : SameExcept parts s (t.setMem m) := by
  intro p hp
  cases p with
  | memory => exact absurd hmem hp
  | _ => exact h _ hp

/-- A write of several registers keeps every frame that leaves the registers free. -/
theorem SameExcept.setRegs {parts : List Part} {s t : State} (h : SameExcept parts s t) (bs : List Byte)
    (hregs : Part.regs ∈ parts) : SameExcept parts s (t.setRegs bs) := by
  intro p hp
  cases p with
  | regs => exact absurd hregs hp
  | _ => simpa [Part.same] using h _ hp

/-- A write of I, then the advance of pc, is an instruction's usual end with I as the only part written. -/
theorem advanced_setI_advance (s : State) (w : Word) : Advanced [.index] [] s (s.setI w).advance := by
  have hparts : SameExcept [.pc, .regs, .index] s (s.setI w) := (SameExcept.refl _ s).setI w (by simp)
  exact ⟨rfl, hparts.setPc _ (by simp), fun _ _ => rfl⟩

/-- A write of memory, then the advance of pc, is an instruction's usual end with memory as the only part written. -/
theorem advanced_setMem_advance (s : State) (m : Memory) : Advanced [.memory] [] s (s.setMem m).advance := by
  have hparts : SameExcept [.pc, .regs, .memory] s (s.setMem m) := (SameExcept.refl _ s).setMem m (by simp)
  exact ⟨rfl, hparts.setPc _ (by simp), fun _ _ => rfl⟩

/-! ### The encoding and the bounds check -/

/-- An encoded register and sub-opcode format as the encoding rules write it, its fixed fields OP and NN first:
`OP<<12 | NN | X<<8` (R71). -/
theorem encodeRegByte_eq_or_xAt8 (op : Nibble) (x : RegId) (nn : Byte) :
    encodeRegByte op x nn = op.setWidth 16 <<< 12 ||| nn.setWidth 16 ||| xAt8 x := by
  rw [encodeRegByte_eq_or]
  ac_rfl

/-- An access of n + 1 bytes is in bounds exactly when its highest address, a + n, is at most 0xFFF (R55, R59). -/
theorem inBounds_succ_iff {a n : Nat} : inBounds a (n + 1) = true ↔ a + n ≤ 0xFFF := by
  rw [inBounds_iff]
  omega

/-- An access of n + 1 bytes is out of bounds exactly when its highest address is above 0xFFF (R55, R59). -/
theorem inBounds_succ_eq_false_iff {a n : Nat} : inBounds a (n + 1) = false ↔ a + n > 0xFFF := by
  rw [← Bool.not_eq_true, inBounds_succ_iff, Nat.not_le]

/-! ### Stores through I -/

/-- A store through I whose last byte, at offset n, is inside memory completes: its bytes stand at I, I + 1, …, I + n, every
other address reads as before, and the rest is an instruction's usual end (R143, R144). -/
theorem exists_next_of_storeAtI {bs : List Byte} {n : Nat} {w : Word} {s : State} (hlen : bs.length = n + 1)
    (htop : s.base + n ≤ 0xFFF) :
    ∃ t, storeAtI bs w s = .next t ∧ (∀ k b, bs[k]? = some b → t.mem.read (s.base + k) = b) ∧
      (∀ a, a < s.base ∨ s.base + n < a → t.mem.read a = s.mem.read a) ∧ Advanced [.memory] [] s t := by
  have hbounds : inBounds s.base bs.length = true := hlen ▸ inBounds_succ_iff.mpr htop
  refine ⟨_, storeAtI_eq_next.mpr ⟨hbounds, rfl⟩, fun k b => ?_, fun a ha => ?_, advanced_setMem_advance s _⟩
  · exact Memory.read_writeFrom_at s.mem s.base k bs b
  · exact Memory.read_writeFrom_outside s.mem s.base a bs (by omega)

/-- A store through I whose last byte, at offset n, is above 0xFFF faults (R143, R144). -/
theorem storeAtI_of_out_of_range {bs : List Byte} {n : Nat} (w : Word) {s : State} (hlen : bs.length = n + 1)
    (htop : s.base + n > 0xFFF) : storeAtI bs w s = .fault (.invalidOpcode .addressOutOfRange w s.pc) :=
  storeAtI_eq_fault (hlen ▸ inBounds_succ_eq_false_iff.mpr htop)

/-! ### Loads through I -/

/-- A register load whose last byte is above 0xFFF faults (R145). -/
theorem execFX65_of_out_of_range {x : RegId} {s : State} (htop : s.base + x.toNat > 0xFFF) :
    execFX65 x s = .fault (.invalidOpcode .addressOutOfRange (encode (.opFX65 x)) s.pc) := by
  simp [execFX65, takeFault, Memory.readBytes?, inBounds_succ_eq_false_iff.mpr htop]

/-- Bytes of memory written to the registers from V0 up: each register below their number takes the byte at its own offset,
and the others keep their values (R145). -/
theorem State.reg_setRegs_readFrom (s : State) (m : Memory) (a n : Nat) (r : RegId) :
    (s.setRegs (m.readFrom a n)).reg r = if r.toNat < n then m.read (a + r.toNat) else s.reg r := by
  rw [State.reg_setRegs, Memory.readFrom_getElem?]
  split <;> rfl

/-! ### The statements -/

/-- Settles O27: the immediate is the value written to I. -/
theorem loadIndex : Obligations.LoadIndex :=
  fun nnn s => ⟨encodeAddr_eq_or 0xA#4 nnn, _, rfl, toNat_zext16_addr nnn, advanced_setI_advance s _⟩

/-- Settles O29: the bytes stored are the three digits, each below 256 and so kept whole in its byte. -/
theorem storeDecimalDigits : Obligations.StoreDecimalDigits := by
  intro x s
  refine ⟨encodeRegByte_eq_or_xAt8 0xF#4 x 0x33#8, fun htop => ?_,
    fun htop => ⟨_, _, storeAtI_of_out_of_range (n := 2) _ rfl htop⟩⟩
  obtain ⟨t, hnext, hstored, houtside, hframe⟩ :=
    exists_next_of_storeAtI (bs := decimalDigits (s.reg x)) (n := 2) rfl htop
  have hbyte := (s.reg x).isLt
  have hdigit : ∀ d < 256, (BitVec.ofNat 8 d).toNat = d := fun _ => Nat.mod_eq_of_lt
  refine ⟨t, hnext, ?_, ?_, ?_, fun a ha => houtside a (by omega), hframe⟩
  · exact (congrArg BitVec.toNat (hstored 0 _ rfl)).trans (hdigit _ (by omega))
  · exact (congrArg BitVec.toNat (hstored 1 _ rfl)).trans (hdigit _ (by omega))
  · exact (congrArg BitVec.toNat (hstored 2 _ rfl)).trans (hdigit _ (by omega))

/-- Settles O30: the bytes stored are V0 to VX, with V[k] at offset k. -/
theorem storeRegisters : Obligations.StoreRegisters := by
  intro x s
  have hlen := s.regsUpTo_length x
  refine ⟨encodeRegByte_eq_or_xAt8 0xF#4 x 0x55#8, fun htop => ?_,
    fun htop => ⟨_, _, storeAtI_of_out_of_range _ hlen htop⟩⟩
  obtain ⟨t, hnext, hstored, houtside, hframe⟩ := exists_next_of_storeAtI hlen htop
  exact ⟨t, hnext, fun k hk => hstored _ _ (s.regsUpTo_getElem? x k hk), houtside, hframe⟩

/-- Settles O31: the bytes read are those at offsets 0 to X, and each goes to the register of its offset. -/
theorem loadRegisters : Obligations.LoadRegisters := by
  intro x s
  refine ⟨encodeRegByte_eq_or_xAt8 0xF#4 x 0x65#8, fun htop => ?_,
    fun htop => ⟨_, _, execFX65_of_out_of_range htop⟩⟩
  have hread := Memory.readBytes?_eq_some (m := s.mem).mpr ⟨inBounds_succ_iff.mpr htop, rfl⟩
  refine ⟨_, execFX65_eq_next.mpr ⟨_, hread, rfl⟩, rfl, fun k => ?_, ?_⟩
  · simp [State.reg_setRegs_readFrom]
  · exact ((SameExcept.refl _ s).setRegs _ (by simp)).setPc _ (by simp)

end Sys2Proof.Machine
end

section
/-! The statements about the key wait and the timers (R162 to R165, R167): `FX0A` writes the engine state alone, the poll
captures the least key down, `FX07` is one register write, `FX15` and `FX18` are one timer write each, and no instruction's
outcome turns on ST. -/

namespace Sys2Proof.Machine

/-! ### Frames -/

/-- A write of DT keeps every frame that leaves DT free. -/
theorem SameExcept.setDt {parts : List Part} {s t : State} (h : SameExcept parts s t) (b : Byte)
    (hdelay : Part.delay ∈ parts) : SameExcept parts s (t.setDt b) := by
  intro p hp
  cases p with
  | delay => exact absurd hdelay hp
  | _ => exact h _ hp

/-- A write of ST keeps every frame that leaves ST free. -/
theorem SameExcept.setSt {parts : List Part} {s t : State} (h : SameExcept parts s t) (b : Byte)
    (hsound : Part.sound ∈ parts) : SameExcept parts s (t.setSt b) := by
  intro p hp
  cases p with
  | sound => exact absurd hsound hp
  | _ => exact h _ hp

/-- A write of MODE keeps every frame that leaves the engine state free. -/
theorem SameExcept.setMode {parts : List Part} {s t : State} (h : SameExcept parts s t) (m : Mode)
    (hengine : Part.engine ∈ parts) : SameExcept parts s (t.setMode m) := by
  intro p hp
  cases p with
  | engine => exact absurd hengine hp
  | _ => exact h _ hp

/-- A write of WREG keeps every frame that leaves the engine state free. -/
theorem SameExcept.setWreg {parts : List Part} {s t : State} (h : SameExcept parts s t) (x : RegId)
    (hengine : Part.engine ∈ parts) : SameExcept parts s (t.setWreg x) := by
  intro p hp
  cases p with
  | engine => exact absurd hengine hp
  | _ => exact h _ hp

/-- A write of DT, then the advance of pc, is an instruction's usual end with DT as the only part written. -/
theorem advanced_setDt_advance (s : State) (b : Byte) : Advanced [.delay] [] s (s.setDt b).advance := by
  have hparts : SameExcept [.pc, .regs, .delay] s (s.setDt b) := (SameExcept.refl _ s).setDt b (by simp)
  exact ⟨rfl, hparts.setPc _ (by simp), fun _ _ => rfl⟩

/-- A write of ST, then the advance of pc, is an instruction's usual end with ST as the only part written. -/
theorem advanced_setSt_advance (s : State) (b : Byte) : Advanced [.sound] [] s (s.setSt b).advance := by
  have hparts : SameExcept [.pc, .regs, .sound] s (s.setSt b) := (SameExcept.refl _ s).setSt b (by simp)
  exact ⟨rfl, hparts.setPc _ (by simp), fun _ _ => rfl⟩

/-! ### The key wait -/

/-- The step of a waiting engine with k the least key down captures k (R163). -/
theorem step_of_lowestKey?_eq_some {s : State} {k : Nat} (hmode : s.mode = .awaitingKey) (hkey : s.lowestKey? = some k) :
    step s = .next ((s.setReg s.wreg (BitVec.ofNat 8 k)).advance.setMode .running) :=
  step_eq_next.mpr (.inl ⟨hmode, by simp [awaitingKeyPoll, hkey]⟩)

/-- The step of a waiting engine with no key down changes nothing (R163). -/
theorem step_of_lowestKey?_eq_none {s : State} (hmode : s.mode = .awaitingKey) (hkey : s.lowestKey? = none) :
    step s = .next s :=
  step_eq_next.mpr (.inl ⟨hmode, by simp [awaitingKeyPoll, hkey]⟩)

/-- Settles O38: the instruction is one write of MODE and one of WREG, the two fields of the engine state. -/
theorem waitForKeyEntersAwaitingKey : Obligations.WaitForKeyEntersAwaitingKey :=
  fun x s => ⟨encodeRegByte_eq_or_xAt8 0xF#4 x 0x0A#8, _, rfl, rfl, rfl,
    ((SameExcept.refl _ s).setMode .awaitingKey (by simp)).setWreg x (by simp)⟩

/-- Settles O39: a key that is down with none below it down is the one the poll finds, and its identifier, below 16, is kept
whole in the byte written. -/
theorem awaitingKeyPollCapturesLowestKey : Obligations.AwaitingKeyPollCapturesLowestKey := by
  intro s hmode
  refine ⟨fun k hdown hleast => ?_, fun hnone => ?_⟩
  · have hkey : s.lowestKey? = some k.val :=
      State.lowestKey?_eq_some.mpr ⟨k.isLt, hdown, fun j hj => hleast ⟨j, by omega⟩ hj⟩
    have hbyte : (BitVec.ofNat 8 k.val).toNat = k.val := Nat.mod_eq_of_lt (by omega)
    refine ⟨_, step_of_lowestKey?_eq_some hmode hkey, ?_, rfl, rfl, ?_, ?_⟩
    · simpa using hbyte
    · exact (((SameExcept.refl _ s).setReg _ _ (by simp)).setPc _ (by simp)).setMode _ (by simp)
    · exact RegsSameExcept.setReg (fun _ _ => rfl) _ (List.mem_singleton_self s.wreg)
  · exact step_of_lowestKey?_eq_none hmode (State.lowestKey?_eq_none.mpr hnone)

/-! ### The timers -/

/-- Settles O40: FX07 is one write of V[X] and FX15 one write of DT. -/
theorem delayTimerAccess : Obligations.DelayTimerAccess := by
  intro x s
  refine ⟨⟨encodeRegByte_eq_or_xAt8 0xF#4 x 0x07#8, _, rfl, ?_, advanced_setReg_advance s x s.dt⟩,
    ⟨encodeRegByte_eq_or_xAt8 0xF#4 x 0x15#8, _, rfl, rfl, advanced_setDt_advance s (s.reg x)⟩⟩
  exact reg_setReg_advance_self s x s.dt

/-- An instruction that completes does so whatever ST holds, and its outcome then differs in ST alone: `FX18` leaves V[X]
there, and every other instruction leaves ST as it found it. -/
theorem exec_setSt_of_exec_eq_next {i : Instr} {s t : State} (b : Byte) (h : exec i s = .next t) :
    ∃ c, exec i (s.setSt b) = .next (t.setSt c) := by
  cases i with
  | opFX18 x =>
    cases h
    exact ⟨s.reg x, rfl⟩
  | op00EE =>
    obtain ⟨a, u, hpop, rfl⟩ := exec00EE_eq_next.mp h
    obtain ⟨hsp, rfl, rfl⟩ := State.pop?_eq_some.mp hpop
    exact ⟨b, exec00EE_eq_next.mpr ⟨_, _, State.pop?_eq_some.mpr ⟨hsp, rfl, rfl⟩, rfl⟩⟩
  | op2NNN =>
    obtain ⟨u, hpush, rfl⟩ := exec2NNN_eq_next.mp h
    obtain ⟨hsp, rfl⟩ := State.push?_eq_some.mp hpush
    exact ⟨b, exec2NNN_eq_next.mpr ⟨_, State.push?_eq_some.mpr ⟨hsp, rfl⟩, rfl⟩⟩
  | opDXYN =>
    obtain ⟨sprite, hread, rfl⟩ := execDXYN_eq_next.mp h
    exact ⟨b, execDXYN_eq_next.mpr ⟨sprite, hread, rfl⟩⟩
  | opFX65 =>
    obtain ⟨bs, hread, rfl⟩ := execFX65_eq_next.mp h
    exact ⟨b, execFX65_eq_next.mpr ⟨bs, hread, rfl⟩⟩
  | opFX33 | opFX55 =>
    obtain ⟨hbounds, rfl⟩ := storeAtI_eq_next.mp h
    exact ⟨b, storeAtI_eq_next.mpr ⟨hbounds, rfl⟩⟩
  | _ =>
    cases h
    exact ⟨b, rfl⟩

/-- Settles O41: FX18 is one write of ST, and the two outcomes of an instruction differ by a write of ST. -/
theorem soundTimerIsSetAndNeverRead : Obligations.SoundTimerIsSetAndNeverRead := by
  refine ⟨fun x s => ?_, fun i s t b h => ?_⟩
  · exact ⟨encodeRegByte_eq_or_xAt8 0xF#4 x 0x18#8, _, rfl, rfl, advanced_setSt_advance s (s.reg x)⟩
  · obtain ⟨c, hnext⟩ := exec_setSt_of_exec_eq_next b h
    exact ⟨_, hnext, (SameExcept.refl _ t).setSt c (by simp)⟩

end Sys2Proof.Machine
end

section
/-! The statement about nested calls (R183): a call takes one slot of the stack, so a list of calls completes exactly
when the stack has room for all of them. -/

namespace Sys2Proof.Machine

/-! ### Instructions one after another -/

theorem execAll_cons_of_next {i : Instr} {s t : State} (is : List Instr) (h : exec i s = .next t) :
    execAll (i :: is) s = execAll is t := by
  simp [execAll, h]

theorem execAll_cons_of_fault {i : Instr} {s : State} {f : Fault} (is : List Instr) (h : exec i s = .fault f) :
    execAll (i :: is) s = .fault f := by
  simp [execAll, h]

/-! ### Nested calls -/

/-- A call with a free slot completes and takes one slot (R102). -/
theorem exists_next_of_call {s : State} (nnn : Addr) (h : s.sp.val < 16) :
    ∃ t, exec (.op2NNN nnn) s = .next t ∧ t.sp.val = s.sp.val + 1 := by
  obtain ⟨-, hpush, -⟩ := callPushesItsOwnAddress nnn s
  obtain ⟨t, hnext, hsp, -⟩ := hpush h
  exact ⟨t, hnext, hsp⟩

/-- Calls that the stack has room for all complete, and each takes one slot. -/
theorem exists_next_of_calls (targets : List Addr) (s : State) (hroom : s.sp.val + targets.length ≤ 16) :
    ∃ t, execAll (targets.map .op2NNN) s = .next t ∧ t.sp.val = s.sp.val + targets.length := by
  induction targets generalizing s with
  | nil => exact ⟨s, rfl, rfl⟩
  | cons nnn targets ih =>
    rw [List.length_cons] at hroom ⊢
    obtain ⟨u, hcall, hu⟩ := exists_next_of_call nnn (s := s) (by omega)
    obtain ⟨t, hrest, ht⟩ := ih u (by omega)
    exact ⟨t, (execAll_cons_of_next _ hcall).trans hrest, by omega⟩

/-- Calls that the stack has no room for overflow it: the one that meets a full stack faults, those before it complete. -/
theorem exists_stackOverflow_of_calls (targets : List Addr) (s : State) (hover : 16 < s.sp.val + targets.length) :
    ∃ w p, execAll (targets.map .op2NNN) s = .fault (.stackOverflow w p) := by
  induction targets generalizing s with
  | nil => exact absurd s.sp.isLt (Nat.not_lt.mpr hover)
  | cons nnn targets ih =>
    rw [List.length_cons] at hover
    obtain hfull | hfree : s.sp.val = 16 ∨ s.sp.val < 16 := by omega
    · exact ⟨_, _, execAll_cons_of_fault _ (exec2NNN_of_full nnn hfull)⟩
    · obtain ⟨u, hcall, hu⟩ := exists_next_of_call nnn hfree
      obtain ⟨w, p, hrest⟩ := ih u (by omega)
      exact ⟨w, p, (execAll_cons_of_next _ hcall).trans hrest⟩

/-- Settles O18: an empty stack has room for sixteen calls and not for seventeen. -/
theorem seventeenthNestedCallOverflows : Obligations.SeventeenthNestedCallOverflows := by
  intro targets s hempty
  refine ⟨fun hlen => ?_, fun hlen => exists_stackOverflow_of_calls targets s (by omega)⟩
  obtain ⟨t, hnext, hsp⟩ := exists_next_of_calls targets s (by omega)
  exact ⟨t, hnext, by omega⟩

end Sys2Proof.Machine
end

section
/-! The statement about the tick (R195): it is one write of DT and one of ST, each with its own value counted down. -/

namespace Sys2Proof.Machine

/-- A timer's value after a tick: one less, and 0 stays 0 (R195). -/
def countDown (b : Byte) : Byte := if b = 0#8 then b else b - 1#8

theorem countDown_zero : countDown 0#8 = 0#8 := rfl

theorem toNat_countDown_add_one {b : Byte} (h : b ≠ 0#8) : (countDown b).toNat + 1 = b.toNat := by
  rw [countDown, if_neg h]
  bv_omega

theorem State.setDt_countDown (s : State) :
    s.setDt (countDown s.dt) = if s.dt = 0#8 then s else s.setDt (s.dt - 1#8) :=
  apply_ite s.setDt _ _ _

theorem State.setSt_countDown (s : State) :
    s.setSt (countDown s.st) = if s.st = 0#8 then s else s.setSt (s.st - 1#8) :=
  apply_ite s.setSt _ _ _

theorem tick_eq_setDt_setSt (s : State) : tick s = (s.setDt (countDown s.dt)).setSt (countDown s.st) := by
  simp only [tick, ← State.setDt_countDown]
  exact (State.setSt_countDown (s.setDt (countDown s.dt))).symm

/-- Settles O43: each timer takes its own value counted down, and the two writes are framed by `SameExcept.setDt` and
`SameExcept.setSt`. -/
theorem tickCountsEachTimerDown : Obligations.TickCountsEachTimerDown := by
  intro s
  rw [tick_eq_setDt_setSt]
  refine ⟨⟨toNat_countDown_add_one, fun hzero => ?_⟩, ⟨toNat_countDown_add_one, fun hzero => ?_⟩, ?_⟩
  · exact (congrArg countDown hzero).trans countDown_zero
  · exact (congrArg countDown hzero).trans countDown_zero
  · exact ((SameExcept.refl _ s).setDt _ (by simp)).setSt _ (by simp)

end Sys2Proof.Machine
end

section
/-! The statements about decoding and encoding (30_encoding.md): an encoded word decodes to its own instruction, the words
that do not decode are the six classes of R76, and each operand is the field of the word that R71 names. -/

namespace Sys2Proof

/-! ### An encoded word decodes to its own instruction -/

/-- In each format the fields the decoder slices off are the ones the encoder put there (R72). -/
theorem decodeWord_encode (i : Instr) : decodeWord (encode i) = some i := by
  cases i with
  | op00E0 | op00EE => rfl
  | op1NNN | op2NNN | opANNN | opBNNN =>
    simp only [encode, decodeWord, opField_encodeAddr, nnnField_encodeAddr]
  | op3XNN | op4XNN | op6XNN | op7XNN | opCXNN =>
    simp only [encode, decodeWord, opField_encodeRegByte, xField_encodeRegByte, nnField_encodeRegByte]
  | op5XY0 | op9XY0 | op8XY0 | op8XY1 | op8XY2 | op8XY3 | op8XY4 | op8XY5 | op8XY6 | op8XY7 | op8XYE | opDXYN =>
    simp only [encode, decodeWord, decodeAlu, opField_encodeRegReg, xField_encodeRegReg, yField_encodeRegReg,
      nField_encodeRegReg, ↓reduceIte]
  | opEX9E | opEXA1 | opFX07 | opFX0A | opFX15 | opFX18 | opFX1E | opFX29 | opFX33 | opFX55 | opFX65 =>
    simp only [encode, decodeWord, decodeKey, decodeMisc, opField_encodeRegByte, xField_encodeRegByte,
      nnField_encodeRegByte]

/-- Settles O1: the well-formedness hypothesis is not needed. -/
theorem decodeOfEncodeGivesInstruction : Obligations.DecodeOfEncodeGivesInstruction :=
  fun i _ => decodeWord_encode i

/-- Settles O2: a word is put together again from the fields its decoding slices off. -/
theorem encodeOfDecodeGivesWord : Obligations.EncodeOfDecodeGivesWord :=
  fun _ _ => encode_of_decodeWord

/-! ### The words that do not decode (R76), one lemma per sub-decoder -/

/-- The sixteen nibbles: past an arm for each of them no arm is reached. -/
theorem nibble_mem_all : ∀ op : Nibble, op ∈ [0x0#4, 0x1#4, 0x2#4, 0x3#4, 0x4#4, 0x5#4, 0x6#4, 0x7#4, 0x8#4, 0x9#4, 0xA#4,
    0xB#4, 0xC#4, 0xD#4, 0xE#4, 0xF#4] := by decide

theorem decodeFixed_eq_none {w : Word} : decodeFixed w = none ↔ w ≠ 0x00E0#16 ∧ w ≠ 0x00EE#16 := by
  unfold decodeFixed
  split <;> simp_all

theorem decodeAlu_eq_none {x y : RegId} {n : Nibble} :
    decodeAlu x y n = none ↔ n ∈ [0x8#4, 0x9#4, 0xA#4, 0xB#4, 0xC#4, 0xD#4, 0xF#4] := by
  unfold decodeAlu
  split
  case h_10 =>
    have hn := nibble_mem_all n
    simp_all
  all_goals simp

theorem decodeKey_eq_none {x : RegId} {nn : Byte} : decodeKey x nn = none ↔ nn ∉ [0x9E#8, 0xA1#8] := by
  unfold decodeKey
  split <;> simp_all

theorem decodeMisc_eq_none {x : RegId} {nn : Byte} :
    decodeMisc x nn = none ↔ nn ∉ [0x07#8, 0x0A#8, 0x15#8, 0x18#8, 0x1E#8, 0x29#8, 0x33#8, 0x55#8, 0x65#8] := by
  unfold decodeMisc
  split <;> simp_all

/-- Settles O4: the primary opcode selects the class, and the sub-decoder's lemma is the class; the last arm of the split is
no value of a nibble. -/
theorem illegalWordsAreTheSixClasses : Obligations.IllegalWordsAreTheSixClasses := by
  intro w
  unfold decodeWord
  split
  case h_17 =>
    have hop := nibble_mem_all (opField w)
    simp_all
  all_goals
    rename_i hop
    simp [hop, decodeFixed_eq_none, decodeAlu_eq_none, decodeKey_eq_none, decodeMisc_eq_none]

/-! ### The operands are the fields of the word (R71) -/

/-- The bits of a slice are the bits of the word from the slice's place up. -/
theorem fieldAt_of_extractLsb'_eq {w : Word} {lo n : Nat} {v : BitVec n} (h : w.extractLsb' lo n = v) :
    Machine.FieldAt w lo v := by
  intro b hb
  simp only [← h, BitVec.getLsbD_extractLsb', hb, decide_true, Bool.true_and]

/-- The operands of an instruction are the fields of its encoded word, format by format (R72). -/
theorem operandsAreFields_encode (i : Instr) : Machine.OperandsAreFields (encode i) i := by
  cases i with
  | op00E0 | op00EE => trivial
  | op1NNN | op2NNN | opANNN | opBNNN => exact fieldAt_of_extractLsb'_eq (nnnField_encodeAddr _ _)
  | op3XNN | op4XNN | op6XNN | op7XNN | opCXNN =>
    exact ⟨fieldAt_of_extractLsb'_eq (xField_encodeRegByte _ _ _),
      fieldAt_of_extractLsb'_eq (nnField_encodeRegByte _ _ _)⟩
  | op5XY0 | op9XY0 | op8XY0 | op8XY1 | op8XY2 | op8XY3 | op8XY4 | op8XY5 | op8XY6 | op8XY7 | op8XYE =>
    exact ⟨fieldAt_of_extractLsb'_eq (xField_encodeRegReg _ _ _ _),
      fieldAt_of_extractLsb'_eq (yField_encodeRegReg _ _ _ _)⟩
  | opDXYN =>
    exact ⟨fieldAt_of_extractLsb'_eq (xField_encodeRegReg _ _ _ _),
      fieldAt_of_extractLsb'_eq (yField_encodeRegReg _ _ _ _), fieldAt_of_extractLsb'_eq (nField_encodeRegReg _ _ _ _)⟩
  | opEX9E | opEXA1 | opFX07 | opFX0A | opFX15 | opFX18 | opFX1E | opFX29 | opFX33 | opFX55 | opFX65 =>
    exact fieldAt_of_extractLsb'_eq (xField_encodeRegByte _ _ _)

/-- Settles O56: a word that decodes is the encoded word of its instruction. -/
theorem operandsAreTheFieldsOfTheWord : Obligations.OperandsAreTheFieldsOfTheWord := by
  intro w i h
  rw [← encode_of_decodeWord h]
  exact operandsAreFields_encode i

/-- Settles O5: each word is written out, and the decoder runs on it. -/
theorem handWrittenWordsDecode : Obligations.HandWrittenWordsDecode := by
  unfold Obligations.HandWrittenWordsDecode
  decide

end Sys2Proof
end

section
/-! The statements about faults (60_exceptions.md section 1): an instruction faults exactly on its condition in R189, with one
record; a step faults at fetch, at decode or so. -/

namespace Sys2Proof.Machine

/-! ### The fault of an instruction (R189) -/

/-- The fault kind of an instruction's own check (R189), for the six that have one. -/
def trapKind : Instr → Word → Word → Fault
  | .op2NNN _ => .stackOverflow
  | .op00EE => .stackUnderflow
  | _ => .invalidOpcode .addressOutOfRange

/-- A draw of at least one row whose last byte is above 0xFFF faults (R151). -/
theorem execDXYN_of_out_of_range {x y : RegId} {n : Nibble} {s : State} (hrows : 1 ≤ n.toNat)
    (htop : s.base + n.toNat - 1 > 0xFFF) :
    execDXYN x y n s = .fault (.invalidOpcode .addressOutOfRange (encode (.opDXYN x y n)) s.pc) := by
  have hbounds : inBounds s.base n.toNat = false := by
    rw [← Bool.not_eq_true, inBounds_iff]
    omega
  simp [execDXYN, takeFault, Memory.readBytes?, hbounds]

/-- A draw whose last byte, if it has one, is inside memory completes (R151, R154). -/
theorem exists_next_of_execDXYN (x y : RegId) {n : Nibble} {s : State}
    (htop : n.toNat = 0 ∨ s.base + n.toNat - 1 ≤ 0xFFF) : ∃ t, execDXYN x y n s = .next t := by
  have hbounds : inBounds s.base n.toNat = true := by
    rw [inBounds_iff]
    omega
  exact ⟨_, execDXYN_eq_next.mpr ⟨_, Memory.readBytes?_eq_some.mpr ⟨hbounds, rfl⟩, rfl⟩⟩

/-- On its condition an instruction takes the fault of its kind, with its encoded word and the pc (R181, R189). -/
theorem exec_of_traps {i : Instr} {s : State} (h : Traps i s) : exec i s = .fault (trapKind i (encode i) s.pc) := by
  cases i with
  | op2NNN nnn => exact exec2NNN_of_full nnn h
  | op00EE => exact exec00EE_of_empty h
  | opDXYN =>
    obtain ⟨hrows, htop⟩ := h
    exact execDXYN_of_out_of_range hrows htop
  | opFX33 => exact storeAtI_of_out_of_range (n := 2) _ rfl h
  | opFX55 x => exact storeAtI_of_out_of_range _ (s.regsUpTo_length x) h
  | opFX65 => exact execFX65_of_out_of_range h
  | _ => exact h.elim

/-- Off its condition an instruction completes (R189). -/
theorem exists_next_of_not_traps {i : Instr} {s : State} (h : ¬ Traps i s) : ∃ t, exec i s = .next t := by
  cases i with
  | op2NNN nnn =>
    have hfree : s.sp.val < 16 := Nat.lt_of_le_of_ne (Nat.le_of_lt_succ s.sp.isLt) h
    obtain ⟨t, hnext, -⟩ := exists_next_of_call nnn hfree
    exact ⟨t, hnext⟩
  | op00EE =>
    have hlive : 0 < s.sp.val := Nat.pos_of_ne_zero h
    exact ⟨_, exec00EE_eq_next.mpr ⟨_, _, State.pop?_eq_some.mpr ⟨hlive, rfl, rfl⟩, rfl⟩⟩
  | opDXYN x y n =>
    simp only [Traps] at h
    exact exists_next_of_execDXYN x y (by simp only [State.base]; omega)
  | opFX33 x =>
    obtain ⟨t, hnext, -⟩ := exists_next_of_storeAtI (bs := decimalDigits (s.reg x)) (n := 2) rfl (Nat.not_lt.mp h)
    exact ⟨t, hnext⟩
  | opFX55 x =>
    obtain ⟨t, hnext, -⟩ := exists_next_of_storeAtI (s.regsUpTo_length x) (Nat.not_lt.mp h)
    exact ⟨t, hnext⟩
  | opFX65 =>
    have hbounds := inBounds_succ_iff.mpr (Nat.not_lt.mp h)
    exact ⟨_, execFX65_eq_next.mpr ⟨_, Memory.readBytes?_eq_some.mpr ⟨hbounds, rfl⟩, rfl⟩⟩
  | _ => exact ⟨_, rfl⟩

/-- All an instruction that faults can answer. -/
theorem exec_eq_fault {i : Instr} {s : State} {f : Fault} :
    exec i s = .fault f ↔ Traps i s ∧ f = trapKind i (encode i) s.pc := by
  constructor
  · intro h
    by_cases htraps : Traps i s
    · have hsame := h.symm.trans (exec_of_traps htraps)
      exact ⟨htraps, Host.Outcome.fault.inj hsame⟩
    · obtain ⟨t, hnext⟩ := exists_next_of_not_traps htraps
      exact absurd (h.symm.trans hnext) (by simp)
  · rintro ⟨htraps, rfl⟩
    exact exec_of_traps htraps

/-- No instruction refuses. -/
theorem exec_ne_refused (i : Instr) (s : State) (r : Refusal) : exec i s ≠ .refused r := by
  by_cases h : Traps i s
  · simp [exec_of_traps h]
  · obtain ⟨t, hnext⟩ := exists_next_of_not_traps h
    simp [hnext]

/-- Settles O11: the kind of the fault is `trapKind`. -/
theorem instructionsFaultExactlyOnTheirCondition : Obligations.InstructionsFaultExactlyOnTheirCondition := by
  intro i s
  refine ⟨exists_next_of_not_traps, fun htraps => ?_⟩
  cases i <;> exact ⟨_, _, exec_of_traps htraps⟩

/-- Settles O35: the condition of `DXYN` in R189. -/
theorem drawSpriteOutOfRangeFaults : Obligations.DrawSpriteOutOfRangeFaults :=
  fun _ _ _ _ hrows htop => execDXYN_of_out_of_range hrows htop

/-! ### The faults of a step (R181, R188) -/

/-- A fetch that fails: pc is out of range, or the word there does not decode. -/
theorem State.fetch_eq_failed {s : State} {f : Fault} :
    s.fetch = .failed f ↔
      (s.fetchWord? = none ∧ f = .invalidOpcode .addressOutOfRange 0x0000#16 s.pc) ∨
      ∃ w, s.fetchWord? = some w ∧ decodeWord w = none ∧ f = .invalidOpcode .noDecodeRule w s.pc := by
  unfold State.fetch
  cases s.fetchWord? with
  | none => simp [eq_comm]
  | some w => cases hdecode : decodeWord w <;> simp [hdecode, eq_comm]

/-- A running engine's step on a fetched instruction is the execution of it (R41). -/
theorem step_of_fetch_eq_insn {s : State} {i : Instr} (hmode : s.mode = .running) (hfetch : s.fetch = .insn i) :
    step s = exec i s := by
  simp [step, hmode, hfetch]

/-- All a step that faults can be: the engine runs, and the fetch fails or the fetched instruction's own check does; the poll
of a waiting engine never faults. -/
theorem step_eq_fault {s : State} {f : Fault} :
    step s = .fault f ↔ s.mode = .running ∧ (s.fetch = .failed f ∨ ∃ i, s.fetch = .insn i ∧ exec i s = .fault f) := by
  unfold step
  cases s.mode with
  | awaitingKey => simp [awaitingKeyPoll_eq]
  | running => cases hfetch : s.fetch <;> simp

/-- Settles O6: the two bytes at pc are the word fetched. -/
theorem stepRunsTheDecodedInstruction : Obligations.StepRunsTheDecodedInstruction := by
  intro s i hmode hpc _ hdecode
  have hfetch := State.fetchWord?_eq_some.mpr ⟨hpc, rfl⟩
  exact step_of_fetch_eq_insn hmode (State.fetch_eq_insn.mpr ⟨_, hfetch, hdecode⟩)

/-- Settles O7: above 0xFFE no word is fetched, up to there the two bytes at pc are. -/
theorem fetchFaultsThenDecodeFaults : Obligations.FetchFaultsThenDecodeFaults :=
  fun _ hmode => ⟨step_of_pc_out_of_range hmode,
    fun hpc => step_of_decodeWord_eq_none hmode (State.fetchWord?_eq_some.mpr ⟨hpc, rfl⟩)⟩

/-- Settles O8: the record of an instruction's own check carries its encoded word, which is the word fetched. -/
theorem stepFaultRecords : Obligations.StepFaultRecords := by
  intro s f h
  obtain ⟨hmode, hfailed | ⟨i, hfetch, hexec⟩⟩ := step_eq_fault.mp h
  · obtain ⟨hnone, rfl⟩ | ⟨w, hw, -, rfl⟩ := State.fetch_eq_failed.mp hfailed
    · exact ⟨hmode, .inl ⟨State.fetchWord?_eq_none.mp hnone, rfl⟩⟩
    · obtain ⟨hpc, hbytes⟩ := State.fetchWord?_eq_some.mp hw
      exact ⟨hmode, .inr ⟨hpc, w, hbytes, .inl rfl⟩⟩
  · obtain ⟨w, hw, hdecode⟩ := State.fetch_eq_insn.mp hfetch
    obtain ⟨hpc, hbytes⟩ := State.fetchWord?_eq_some.mp hw
    obtain ⟨-, rfl⟩ := exec_eq_fault.mp hexec
    refine ⟨hmode, .inr ⟨hpc, w, hbytes, ?_⟩⟩
    rw [encode_of_decodeWord hdecode]
    cases i <;> simp [trapKind]

/-! ### What a fault depends on (R187) -/

/-- Fetch and decode look at pc and memory alone. -/
theorem State.fetch_congr {s s' : State} (hpc : s'.pc = s.pc) (hmem : ∀ a, s'.mem.read a = s.mem.read a) :
    s'.fetch = s.fetch := by
  simp only [State.fetch, State.fetchWord?, Memory.readWord?, hpc, hmem]

/-- The fault conditions look at I and SP alone. -/
theorem traps_congr {i : Instr} {s s' : State} (hindex : s'.i = s.i) (hsp : s'.sp = s.sp) :
    Traps i s' ↔ Traps i s := by
  simp only [Traps, hindex, hsp]

/-- Settles O9: a fault comes from the fetch or from an instruction's own check, and each looks at these four alone. -/
theorem stepFaultsDependOnlyOnPcMemoryIndexDepth : Obligations.StepFaultsDependOnlyOnPcMemoryIndexDepth := by
  intro s s' f _ hmode' hpc hindex hsp hmem h
  obtain ⟨-, hcause⟩ := step_eq_fault.mp h
  have hexec (i : Instr) : exec i s' = .fault f ↔ exec i s = .fault f := by
    rw [exec_eq_fault, exec_eq_fault, traps_congr hindex hsp, hpc]
  refine step_eq_fault.mpr ⟨hmode', ?_⟩
  simpa only [State.fetch_congr hpc hmem, hexec] using hcause

/-- Settles O10: a refusal of a step would be one of the instruction fetched. -/
theorem noStepIsRefused : Obligations.NoStepIsRefused := by
  intro s
  cases h : step s with
  | next t => exact .inl ⟨t, rfl⟩
  | fault f => exact .inr ⟨f, rfl⟩
  | refused r =>
    obtain ⟨i, -, hexec⟩ := step_eq_refused h
    exact absurd hexec (exec_ne_refused i s r)

end Sys2Proof.Machine
end

section
/-! The frame of every instruction (10_state.md sections 1 to 7): an instruction's usual end, `Advanced`, for each of the
writes that the earlier statements did not need, and from them the frame that each rule names. -/

namespace Sys2Proof.Machine

/-! ### Frames of the remaining writes -/

/-- A frame may name more parts. -/
theorem SameExcept.mono {parts parts' : List Part} {s t : State} (h : SameExcept parts s t) (hsub : parts ⊆ parts') :
    SameExcept parts' s t :=
  fun p hp => h p fun hmem => hp (hsub hmem)

/-- A write of the framebuffer keeps every frame that leaves the framebuffer free. -/
theorem SameExcept.setFb {parts : List Part} {s t : State} (h : SameExcept parts s t) (f : Framebuffer)
    (hfb : Part.framebuffer ∈ parts) : SameExcept parts s (t.setFb f) := by
  intro p hp
  cases p with
  | framebuffer => exact absurd hfb hp
  | _ => exact h _ hp

/-- A count of one draw keeps every frame that leaves the draws free. -/
theorem SameExcept.countDraw {parts : List Part} {s t : State} (h : SameExcept parts s t) (hdraws : Part.draws ∈ parts) :
    SameExcept parts s t.countDraw := by
  intro p hp
  cases p with
  | draws => exact absurd hdraws hp
  | _ => exact h _ hp

/-! ### The usual end of the remaining instructions -/

/-- The two assignments of a flag-writing instruction, then the advance of pc, write V[X] and VF alone (R137). -/
theorem advanced_flagThenResult_advance (s : State) (x : RegId) (flag result : State → Byte) :
    Advanced [] [x, VF] s (s.flagThenResult x flag result).advance := by
  have hparts : SameExcept [.pc, .regs] s (s.flagThenResult x flag result) :=
    ((SameExcept.refl _ s).setReg VF _ (by simp)).setReg x _ (by simp)
  have hregs : RegsSameExcept [x, VF] s (s.flagThenResult x flag result) :=
    RegsSameExcept.setReg (RegsSameExcept.setReg (fun _ _ => rfl) _ (by simp)) _ (by simp)
  exact ⟨rfl, hparts.setPc _ (by simp), hregs⟩

/-- A write of V[X] and a count of one draw, then the advance of pc (R166). -/
theorem advanced_setReg_countDraw_advance (s : State) (x : RegId) (b : Byte) :
    Advanced [.draws] [x] s (s.setReg x b).countDraw.advance := by
  have hparts : SameExcept [.pc, .regs, .draws] s (s.setReg x b).countDraw :=
    ((SameExcept.refl _ s).setReg x b (by simp)).countDraw (by simp)
  have hregs : RegsSameExcept [x] s (s.setReg x b) := RegsSameExcept.setReg (fun _ _ => rfl) b (by simp)
  exact ⟨rfl, hparts.setPc _ (by simp), hregs⟩

/-- A write of the framebuffer and REDRAW, then the advance of pc (R150). -/
theorem advanced_setFb_setRedraw_advance (s : State) (f : Framebuffer) (b : Bool) :
    Advanced [.framebuffer, .redraw] [] s ((s.setFb f).setRedraw b).advance := by
  have hparts : SameExcept [.pc, .regs, .framebuffer, .redraw] s ((s.setFb f).setRedraw b) :=
    ((SameExcept.refl _ s).setFb f (by simp)).setRedraw b (by simp)
  exact ⟨rfl, hparts.setPc _ (by simp), fun _ _ => rfl⟩

/-- A write of the framebuffer, of V[X] and of REDRAW, then the advance of pc (R151). -/
theorem advanced_setFb_setReg_setRedraw_advance (s : State) (f : Framebuffer) (x : RegId) (v : Byte) (b : Bool) :
    Advanced [.framebuffer, .redraw] [x] s (((s.setFb f).setReg x v).setRedraw b).advance := by
  have hparts : SameExcept [.pc, .regs, .framebuffer, .redraw] s (((s.setFb f).setReg x v).setRedraw b) :=
    (((SameExcept.refl _ s).setFb f (by simp)).setReg x v (by simp)).setRedraw b (by simp)
  have hregs : RegsSameExcept [x] s ((s.setFb f).setReg x v) := RegsSameExcept.setReg (fun _ _ => rfl) v (by simp)
  exact ⟨rfl, hparts.setPc _ (by simp), hregs⟩

/-- The registers `FX65` may write are those up to VX. -/
theorem mem_regsWritten_opFX65 {x r : RegId} : r ∈ regsWritten (.opFX65 x) ↔ r.toNat ≤ x.toNat := by
  simp only [regsWritten, List.mem_map, List.mem_range]
  constructor
  · rintro ⟨k, hk, rfl⟩
    exact (Nat.mod_le k _).trans (Nat.le_of_lt_succ hk)
  · exact fun h => ⟨r.toNat, Nat.lt_succ_of_le h, by simp⟩

/-- A load of V0 to VX, then the advance of pc, writes those registers alone (R145). -/
theorem advanced_setRegs_advance {s : State} {x : RegId} {bs : List Byte} (hlen : bs.length = x.toNat + 1) :
    Advanced [] (regsWritten (.opFX65 x)) s (s.setRegs bs).advance := by
  have hparts : SameExcept [.pc, .regs] s (s.setRegs bs) := (SameExcept.refl _ s).setRegs bs (by simp)
  refine ⟨rfl, hparts.setPc _ (by simp), fun r hr => ?_⟩
  rw [mem_regsWritten_opFX65] at hr
  rw [State.advance_reg, State.reg_setRegs, List.getElem?_eq_none (by omega), Option.getD_none]

/-! ### The frame that each rule names -/

/-- The frame an instruction's rule names. -/
def KeepsFrame (i : Instr) (s t : State) : Prop :=
  SameExcept (.regs :: partsWritten i) s t ∧ RegsSameExcept (regsWritten i) s t

/-- An instruction's usual end keeps its frame, when the rule names the parts. -/
theorem KeepsFrame.of_advanced {i : Instr} {parts : List Part} {s t : State} (h : Advanced parts (regsWritten i) s t)
    (hparts : partsWritten i = .pc :: parts) : KeepsFrame i s t := by
  obtain ⟨-, hsame, hregs⟩ := h
  refine ⟨hsame.mono ?_, hregs⟩
  rw [hparts]
  exact (List.Perm.swap .regs .pc parts).subset

/-- An instruction that writes no register keeps its frame when it writes only the parts its rule names. -/
theorem KeepsFrame.of_sameExcept {i : Instr} {s t : State} (h : SameExcept (partsWritten i) s t)
    (hregs : ∀ r, t.reg r = s.reg r) : KeepsFrame i s t :=
  ⟨h.mono (List.subset_cons_self _ _), fun r _ => hregs r⟩

/-- Every instruction that completes keeps the frame its rule names. -/
theorem keepsFrame_of_exec_eq_next {i : Instr} {s t : State} (h : exec i s = .next t) : KeepsFrame i s t := by
  cases i with
  | op00E0 => cases h; exact .of_advanced (advanced_setFb_setRedraw_advance s _ _) rfl
  | op00EE =>
    obtain ⟨a, u, hpop, rfl⟩ := exec00EE_eq_next.mp h
    refine .of_sameExcept
      (((SameExcept.refl _ s).pop? hpop (by simp [partsWritten])).setPc _ (by simp [partsWritten])) ?_
    obtain ⟨_, -, rfl⟩ := State.pop?_eq_some.mp hpop
    exact fun _ => rfl
  | op2NNN =>
    obtain ⟨u, hpush, rfl⟩ := exec2NNN_eq_next.mp h
    refine .of_sameExcept
      (((SameExcept.refl _ s).push? hpush (by simp [partsWritten])).setPc _ (by simp [partsWritten])) ?_
    obtain ⟨_, rfl⟩ := State.push?_eq_some.mp hpush
    exact fun _ => rfl
  | op1NNN | opBNNN =>
    cases h
    exact .of_sameExcept ((SameExcept.refl _ s).setPc _ (by simp [partsWritten])) fun _ => rfl
  | op3XNN | op4XNN | op5XY0 | op9XY0 | opEX9E | opEXA1 =>
    cases h
    exact .of_sameExcept (sameExcept_skipIf s _) fun _ => rfl
  | op6XNN | op7XNN | op8XY0 | op8XY1 | op8XY2 | op8XY3 | opFX07 =>
    cases h
    exact .of_advanced (advanced_setReg_advance s _ _) rfl
  | op8XY4 | op8XY5 | op8XY6 | op8XY7 | op8XYE =>
    cases h
    exact .of_advanced (advanced_flagThenResult_advance s _ _ _) rfl
  | opANNN | opFX1E | opFX29 => cases h; exact .of_advanced (advanced_setI_advance s _) rfl
  | opCXNN => cases h; exact .of_advanced (advanced_setReg_countDraw_advance s _ _) rfl
  | opDXYN =>
    obtain ⟨sprite, -, rfl⟩ := execDXYN_eq_next.mp h
    exact .of_advanced (advanced_setFb_setReg_setRedraw_advance s _ _ _ _) rfl
  | opFX0A =>
    cases h
    exact .of_sameExcept
      (((SameExcept.refl _ s).setMode _ (by simp [partsWritten])).setWreg _ (by simp [partsWritten])) fun _ => rfl
  | opFX15 => cases h; exact .of_advanced (advanced_setDt_advance s _) rfl
  | opFX18 => cases h; exact .of_advanced (advanced_setSt_advance s _) rfl
  | opFX33 | opFX55 =>
    obtain ⟨-, rfl⟩ := storeAtI_eq_next.mp h
    exact .of_advanced (advanced_setMem_advance s _) rfl
  | opFX65 =>
    obtain ⟨bs, hread, rfl⟩ := execFX65_eq_next.mp h
    obtain ⟨-, rfl⟩ := Memory.readBytes?_eq_some.mp hread
    exact .of_advanced (advanced_setRegs_advance (Memory.readFrom_length _ _ _)) rfl

/-- Settles O13: the two frames together are `KeepsFrame`. -/
theorem instructionsWriteOnlyWhatTheirRulesName : Obligations.InstructionsWriteOnlyWhatTheirRulesName :=
  fun _ _ _ => keepsFrame_of_exec_eq_next

end Sys2Proof.Machine
end

section
/-! What an event can do to the core, said once (10_state.md section 12): the statements about events go through it. -/

namespace Sys2Proof.Machine

/-- What holds of the core and of the next state an outcome gives holds after the event (R186). -/
theorem Session.after_core {P : State → Prop} {e : Session} {r : Result} (window : Bool) (done : State → Response)
    (hcore : P e.core) (hnext : ∀ s, r = .next s → P s) : P (e.after window done r).1.core := by
  cases r with
  | next s => exact hnext s rfl
  | fault _ | refused _ => exact hcore

/-- A key event that completes is one write of the keypad latch (R197, R198). -/
theorem setKeyChecked_eq_next {id : Byte} {down : Bool} {s t : State} :
    setKeyChecked id down s = .next t ↔ ∃ h : id.toNat < 16, t = s.setKey ⟨id.toNat, h⟩ down := by
  by_cases h : id.toNat < 16 <;> simp [setKeyChecked, h, eq_comm]

/-- A load that completes is one store of an image that fits (R212). -/
theorem loadProgram_eq_next {bytes : List Byte} {s t : State} :
    loadProgram bytes s = .next t ↔
      bytes.length ≤ 0xE00 ∧ t = s.setMem (s.mem.writeFrom 0x200 bytes) := by
  by_cases h : bytes.length ≤ 0xE00 <;> simp [loadProgram, imageWellFormed, h, eq_comm]

/-- All an event can do to the core: leave it as it is, as every fault and refusal does, or the one change its rule gives
(R40). -/
inductive CoreAfter (s : State) : Event → State → Prop
  | unchanged (ev : Event) : CoreAfter s ev s
  | reset : CoreAfter s .reset (resetCore s)
  | loaded (bytes : List Byte) (hlen : bytes.length ≤ 0xE00) :
    CoreAfter s (.loadProgram bytes) (s.setMem (s.mem.writeFrom 0x200 bytes))
  | stepped (t : State) (h : step s = .next t) : CoreAfter s .step t
  | ticked : CoreAfter s .tick ((s.setDt (countDown s.dt)).setSt (countDown s.st))
  | pressed (id : Byte) (k : Fin 16) : CoreAfter s (.keyPress id) (s.setKey k true)
  | released (id : Byte) (k : Fin 16) : CoreAfter s (.keyRelease id) (s.setKey k false)
  | redrawTaken : CoreAfter s .takeRedraw (s.setRedraw false)

theorem coreAfter_applyEvent (ev : Event) (e : Session) : CoreAfter e.core ev (applyEvent ev e).1.core := by
  cases ev with
  | reset => exact .reset
  | loadProgram bytes =>
    simp only [applyEvent]
    split
    · refine Session.after_core _ _ (.unchanged _) fun t h => ?_
      obtain ⟨hlen, rfl⟩ := loadProgram_eq_next.mp h
      exact .loaded bytes hlen
    · exact .unchanged _
  | step => exact Session.after_core _ _ (.unchanged _) .stepped
  | tick =>
    simp only [applyEvent, tick_eq_setDt_setSt]
    exact .ticked
  | keyPress id =>
    refine Session.after_core _ _ (.unchanged _) fun t h => ?_
    obtain ⟨_, rfl⟩ := setKeyChecked_eq_next.mp h
    exact .pressed id _
  | keyRelease id =>
    refine Session.after_core _ _ (.unchanged _) fun t h => ?_
    obtain ⟨_, rfl⟩ := setKeyChecked_eq_next.mp h
    exact .released id _
  | takeRedraw => exact .redrawTaken

/-- What every event of a list keeps, the list keeps. -/
theorem applyEvents_induction {P : Session → Prop} {evs : List Event} {e : Session}
    (hevent : ∀ ev ∈ evs, ∀ e, P e → P (applyEvent ev e).1) (he : P e) : P (applyEvents evs e) := by
  induction evs generalizing e with
  | nil => exact he
  | cons ev evs ih =>
    obtain ⟨hev, hevs⟩ := List.forall_mem_cons.mp hevent
    exact ih hevs (hev e he)

end Sys2Proof.Machine
end

section
/-! The invariant (10_state.md section 2): it holds at reset, every instruction and the poll keep it, and so does every
event. -/

namespace Sys2Proof.Machine

/-! ### What an instruction that completes can do to each clause -/

/-- Memory: only the stores through I write it, and inside its bounds (R57, R59). -/
theorem mem_wf_of_exec_eq_next {i : Instr} {s t : State} (hwf : s.mem.wf = true) (h : exec i s = .next t) :
    t.mem.wf = true := by
  cases i with
  | opFX33 | opFX55 =>
    obtain ⟨hbounds, rfl⟩ := storeAtI_eq_next.mp h
    exact Memory.writeBytes?_wf hwf (Memory.writeBytes?_eq_some.mpr ⟨hbounds, rfl⟩)
  | op00EE =>
    obtain ⟨a, u, hpop, rfl⟩ := exec00EE_eq_next.mp h
    obtain ⟨_, -, rfl⟩ := State.pop?_eq_some.mp hpop
    exact hwf
  | op2NNN =>
    obtain ⟨u, hpush, rfl⟩ := exec2NNN_eq_next.mp h
    obtain ⟨_, rfl⟩ := State.push?_eq_some.mp hpush
    exact hwf
  | opDXYN =>
    obtain ⟨sprite, -, rfl⟩ := execDXYN_eq_next.mp h
    exact hwf
  | opFX65 =>
    obtain ⟨bs, -, rfl⟩ := execFX65_eq_next.mp h
    exact hwf
  | _ =>
    cases h
    exact hwf

theorem toNat_skip_le {w : Word} {c : Prop} [Decidable c] (hw : w.toNat ≤ 0xFFE) :
    (w + if c then 4#16 else 2#16).toNat ≤ 0x1002 := by
  split <;> bv_omega

/-- pc: the highest value is that of `BNNN` with V0 = 0xFF and NNN = 0xFFF (R25). -/
theorem toNat_pcAfter_le {i : Instr} {s : State} (hpc : s.pc.toNat ≤ 0xFFE)
    (hnewest : i = .op00EE → (s.stack.toList.getD (s.sp.val - 1) 0#16).toNat ≤ 0xFFE) :
    (pcAfter i s).toNat ≤ 0x10FE := by
  cases i with
  | op3XNN | op4XNN | op5XY0 | op9XY0 | opEX9E | opEXA1 => exact (toNat_skip_le hpc).trans (by decide)
  | op1NNN nnn | op2NNN nnn =>
    have hnnn := nnn.isLt
    exact (toNat_zext16_addr nnn).trans_le (by omega)
  | opBNNN nnn =>
    have hnnn := nnn.isLt
    have hbyte := (s.reg V0).isLt
    exact (toNat_zext16_byte_add_addr (s.reg V0) nnn).trans_le (by omega)
  | op00EE =>
    have hslot := hnewest rfl
    simp only [pcAfter]
    bv_omega
  | opFX0A => exact hpc.trans (by decide)
  | _ =>
    simp only [pcAfter]
    bv_omega

/-- The engine waits after `FX0A` alone, which leaves pc (R162). -/
theorem pc_of_exec_eq_next_awaitingKey {i : Instr} {s t : State} (hmode : s.mode = .running) (h : exec i s = .next t)
    (hwait : t.mode = .awaitingKey) : t.pc = s.pc := by
  cases i with
  | opFX0A => exact exec_next_pc h
  | _ =>
    obtain ⟨hframe, -⟩ := keepsFrame_of_exec_eq_next h
    obtain ⟨hsame, -⟩ := hframe .engine (by simp [partsWritten])
    rw [hsame, hmode] at hwait
    cases hwait

/-- The live stack slots: a call adds its own pc, a return takes one away, nothing else touches them (R102, R100). -/
theorem slots_of_exec_eq_next {P : Word → Prop} {i : Instr} {s t : State} (hpc : P s.pc)
    (hslots : ∀ k : Fin 16, k.val < s.sp.val → P s.stack[k]) (h : exec i s = .next t) :
    ∀ k : Fin 16, k.val < t.sp.val → P t.stack[k] := by
  intro k hk
  cases i with
  | op2NNN =>
    obtain ⟨u, hpush, rfl⟩ := exec2NNN_eq_next.mp h
    obtain ⟨_, rfl⟩ := State.push?_eq_some.mp hpush
    simp only [State.setPc_sp] at hk
    simp only [State.setPc_stack, Fin.getElem_fin, Vector.getElem_set]
    split
    · exact hpc
    · exact hslots k (by omega)
  | op00EE =>
    obtain ⟨a, u, hpop, rfl⟩ := exec00EE_eq_next.mp h
    obtain ⟨_, -, rfl⟩ := State.pop?_eq_some.mp hpop
    exact hslots k (by simp at hk; omega)
  | _ =>
    obtain ⟨hframe, -⟩ := keepsFrame_of_exec_eq_next h
    obtain ⟨hsp, hstack⟩ := hframe .stack (by simp [partsWritten])
    rw [hstack]
    exact hslots k (hsp ▸ hk)

/-! ### The step -/

/-- An instruction that a running engine fetches keeps the invariant. -/
theorem inv_of_exec_eq_next {i : Instr} {s t : State} (hinv : s.Inv) (hmode : s.mode = .running)
    (hpc : s.pc.toNat ≤ 0xFFE) (h : exec i s = .next t) : t.Inv where
  memWf := mem_wf_of_exec_eq_next hinv.memWf h
  pcBound := by
    rw [exec_next_pc h]
    refine toNat_pcAfter_le hpc ?_
    rintro rfl
    obtain ⟨a, u, hpop, rfl⟩ := exec00EE_eq_next.mp h
    obtain ⟨hsp, -, -⟩ := State.pop?_eq_some.mp hpop
    have hlt : s.sp.val - 1 < 16 := by omega
    simpa [hlt] using hinv.slots ⟨s.sp.val - 1, hlt⟩ (by simp; omega)
  waitPc := fun hwait => by rwa [pc_of_exec_eq_next_awaitingKey hmode h hwait]
  slots := slots_of_exec_eq_next (P := fun w => w.toNat ≤ 0xFFE) hpc hinv.slots h

/-- A captured key keeps the invariant: pc was at most 0xFFE, and the engine runs again. -/
theorem inv_of_capture {s : State} (hinv : s.Inv) (hmode : s.mode = .awaitingKey) (x : RegId) (b : Byte) :
    ((s.setReg x b).advance.setMode .running).Inv where
  memWf := hinv.memWf
  pcBound := by
    have hpc := hinv.waitPc hmode
    simp only [State.setMode_pc, State.advance_pc, State.setReg_pc]
    bv_omega
  waitPc := by simp
  slots := hinv.slots

/-- Settles O54: a step is an instruction fetched at pc ≤ 0xFFE, or a poll. -/
theorem stepKeepsInvariant : Obligations.StepKeepsInvariant := by
  intro s t hinv h
  obtain ⟨hmode, -⟩ | ⟨hmode, i, hfetch, hexec⟩ := step_eq_next.mp h
  · obtain ⟨k, rfl⟩ | rfl := step_of_awaitingKey hmode h
    · exact inv_of_capture hinv hmode _ _
    · exact hinv
  · obtain ⟨w, hw, -⟩ := State.fetch_eq_insn.mp hfetch
    obtain ⟨hpc, -⟩ := State.fetchWord?_eq_some.mp hw
    exact inv_of_exec_eq_next hinv hmode hpc hexec

/-! ### The events -/

/-- Settles O53: memory lists nothing, pc is 0x200, the engine runs and the stack is empty. -/
theorem resetMeetsInvariant : Obligations.ResetMeetsInvariant where
  memWf := Memory.wf_reset
  pcBound := by decide
  waitPc := nofun
  slots := nofun

/-- The invariant looks at memory, pc, MODE and the stack alone. -/
theorem State.Inv.congr {s t : State} (hinv : s.Inv) (hmem : t.mem = s.mem) (hpc : t.pc = s.pc) (hmode : t.mode = s.mode)
    (hsp : t.sp = s.sp) (hstack : t.stack = s.stack) : t.Inv where
  memWf := hmem ▸ hinv.memWf
  pcBound := hpc ▸ hinv.pcBound
  waitPc := by rw [hpc, hmode]; exact hinv.waitPc
  slots := by rw [hsp, hstack]; exact hinv.slots

/-- A write of memory in canonical form keeps the invariant. -/
theorem State.Inv.setMem {s : State} (hinv : s.Inv) {m : Memory} (hm : m.wf = true) : (s.setMem m).Inv where
  memWf := hm
  pcBound := hinv.pcBound
  waitPc := hinv.waitPc
  slots := hinv.slots

/-- Every event keeps the invariant. -/
theorem State.Inv.of_coreAfter {ev : Event} {s t : State} (hinv : s.Inv) (h : CoreAfter s ev t) : t.Inv := by
  cases h with
  | unchanged => exact hinv
  | reset => exact resetMeetsInvariant.congr rfl rfl rfl rfl rfl
  | loaded bytes hlen =>
    have hfits : 0x200 + bytes.length ≤ Config.memSize := Nat.add_le_add_left hlen 0x200
    exact hinv.setMem (Memory.wf_writeFrom hfits hinv.memWf)
  | stepped t hnext => exact stepKeepsInvariant s t hinv hnext
  | ticked | pressed | released | redrawTaken => exact hinv.congr rfl rfl rfl rfl rfl

/-- Settles O55: the invariant is kept event by event. -/
theorem eventsKeepInvariant : Obligations.EventsKeepInvariant :=
  fun _ _ => applyEvents_induction (P := fun e => e.core.Inv) fun ev _ e hinv =>
    hinv.of_coreAfter (coreAfter_applyEvent ev e)

end Sys2Proof.Machine
end

section
/-! The remaining statements about instructions apart from drawing: call and return (R100, R102), the flag-writing ALU forms
(R126 to R130), I (R141, R142), a store that is fetched, the key skips (R160, R161) and the random byte (R166). -/

namespace Sys2Proof.Machine

/-! ### Call and return -/

/-- Settles O17: the call's push takes slot SP, which is then the newest live one, and the return pops it. -/
theorem callThenReturnRoundTrip : Obligations.CallThenReturnRoundTrip := by
  intro nnn s t t' hcall hsp hslots
  obtain ⟨u, hpush, rfl⟩ := exec2NNN_eq_next.mp hcall
  obtain ⟨hfree, rfl⟩ := State.push?_eq_some.mp hpush
  have hnewest : t'.sp.val = s.sp.val + 1 := congrArg Fin.val hsp
  have hpop := State.pop?_of_newest (s := t') (k := ⟨s.sp.val, hfree⟩) hnewest.symm
  refine ⟨_, exec00EE_eq_next.mpr ⟨_, _, hpop, rfl⟩, ?_, rfl, fun k hk => ?_, ?_⟩
  · simp [hslots ⟨s.sp.val, hfree⟩ (Nat.lt_succ_self _)]
  · have hkeep := hslots k (Nat.lt_succ_of_lt hk)
    simpa [Vector.getElem_set, Nat.ne_of_gt hk] using hkeep
  · exact ((SameExcept.refl _ t').pop? hpop (by simp)).setPc _ (by simp)

/-! ### The flag-writing ALU forms -/

/-- A difference of bytes, modulo 256 (R136). -/
theorem toNat_byte_sub (a b : Byte) :
    (a - b).toNat = if a.toNat ≥ b.toNat then a.toNat - b.toNat else a.toNat + 256 - b.toNat := by
  have ha := a.isLt
  have hb := b.isLt
  rw [BitVec.toNat_sub]
  split <;> omega

/-- An operand as the write of the flag left it: the flag if it is VF, else its own value (R137). -/
theorem State.toNat_reg_setReg (s : State) (x r : RegId) (b : Byte) :
    ((s.setReg x b).reg r).toNat = if r = x then b.toNat else (s.reg r).toNat := by
  rw [State.reg_setReg, apply_ite BitVec.toNat]

/-- The result of a flag-writing instruction, formed from the registers as the write of the flag left them (R137). -/
theorem State.reg_flagThenResult_self (s : State) (x : RegId) (flag result : State → Byte) :
    (s.flagThenResult x flag result).reg x = result (s.setReg VF (flag s)) := by
  rw [State.reg_flagThenResult, if_pos rfl]

/-- The flag, where VF is not the destination (R137). -/
theorem State.reg_flagThenResult_VF (s : State) {x : RegId} (flag result : State → Byte) (hx : x ≠ VF) :
    (s.flagThenResult x flag result).reg VF = flag s := by
  rw [State.reg_flagThenResult, if_neg hx.symm, if_pos rfl]

/-- Settles O23: the operands of the sum are the registers as the write of the carry left them. -/
theorem addWithCarryOut : Obligations.AddWithCarryOut := by
  intro x y s
  refine ⟨_, rfl, advanced_flagThenResult_advance s x _ _, ?_⟩
  rintro _ _ _ rfl rfl rfl
  refine ⟨?_, fun hx => ?_⟩
  · rw [State.advance_reg, State.reg_flagThenResult_self, BitVec.toNat_add, State.toNat_reg_setReg,
      State.toNat_reg_setReg, carryFlag_toNat]
  · rw [State.advance_reg, State.reg_flagThenResult_VF s _ _ hx, carryFlag_toNat]

/-- The outcome of the two subtractions: minuend less subtrahend to V[X], no borrow to VF first (R127, R129). -/
def State.subtract (s : State) (x minuend subtrahend : RegId) : State :=
  (s.flagThenResult x (fun u => noBorrowFlag (u.reg minuend) (u.reg subtrahend))
    (fun u => u.reg minuend - u.reg subtrahend)).advance

theorem exec8XY5_eq_subtract (x y : RegId) (s : State) : exec8XY5 x y s = .next (s.subtract x x y) := rfl

theorem exec8XY7_eq_subtract (x y : RegId) (s : State) : exec8XY7 x y s = .next (s.subtract x y x) := rfl

/-- The flag, and the difference of the operands as the write of the flag left them (R137). -/
theorem State.toNat_reg_subtract (s : State) (x minuend subtrahend : RegId) :
    ∀ c a b : Nat, c = (if (s.reg minuend).toNat ≥ (s.reg subtrahend).toNat then 1 else 0) →
      a = (if minuend = VF then c else (s.reg minuend).toNat) →
      b = (if subtrahend = VF then c else (s.reg subtrahend).toNat) →
      ((s.subtract x minuend subtrahend).reg x).toNat = (if a ≥ b then a - b else a + 256 - b) ∧
        (x ≠ VF → ((s.subtract x minuend subtrahend).reg VF).toNat = c) := by
  rintro _ _ _ rfl rfl rfl
  refine ⟨?_, fun hx => ?_⟩
  · rw [State.subtract, State.advance_reg, State.reg_flagThenResult_self, toNat_byte_sub, State.toNat_reg_setReg,
      State.toNat_reg_setReg, noBorrowFlag_toNat]
  · rw [State.subtract, State.advance_reg, State.reg_flagThenResult_VF s _ _ hx, noBorrowFlag_toNat]

/-- Settles O24: the two forms are one subtraction, with the operands exchanged. -/
theorem subtractWithNoBorrowFlag : Obligations.SubtractWithNoBorrowFlag := by
  intro x y s
  refine ⟨⟨_, exec8XY5_eq_subtract x y s, ?_, s.toNat_reg_subtract x x y⟩,
    ⟨_, exec8XY7_eq_subtract x y s, ?_, s.toNat_reg_subtract x y x⟩⟩
  · exact advanced_flagThenResult_advance s x _ _
  · exact advanced_flagThenResult_advance s x _ _

/-- A byte shifted right by one position (R128). -/
theorem toNat_byte_shiftRight_one (a : Byte) : (a >>> 1).toNat = a.toNat / 2 := by
  rw [BitVec.toNat_ushiftRight, Nat.shiftRight_one]

/-- A byte shifted left by one position, modulo 256 (R130). -/
theorem toNat_byte_shiftLeft_one (a : Byte) : (a <<< 1).toNat = a.toNat * 2 % 256 := by
  rw [BitVec.toNat_shiftLeft, Nat.shiftLeft_eq]

/-- Settles O25: with X = 0xF the byte shifted is the flag, 0 or 1, and so loses it to the right or doubles it to the left. -/
theorem shiftsByOne : Obligations.ShiftsByOne := by
  intro x y s
  refine ⟨⟨_, rfl, advanced_flagThenResult_advance s x _ _, fun hx => ⟨?_, ?_⟩, ?_⟩,
    ⟨_, rfl, advanced_flagThenResult_advance s x _ _, fun hx => ⟨?_, ?_⟩, ?_⟩⟩
  · rw [State.advance_reg, State.reg_flagThenResult_self, toNat_byte_shiftRight_one, State.toNat_reg_setReg, if_neg hx]
  · rw [State.advance_reg, State.reg_flagThenResult_VF s _ _ hx, lowBitFlag_toNat]
  · rintro rfl
    refine BitVec.eq_of_toNat_eq ?_
    rw [State.advance_reg, State.reg_flagThenResult_self, toNat_byte_shiftRight_one, State.reg_setReg_self,
      lowBitFlag_toNat]
    exact Nat.div_eq_of_lt (Nat.mod_lt _ (by decide))
  · rw [State.advance_reg, State.reg_flagThenResult_self, toNat_byte_shiftLeft_one, State.toNat_reg_setReg, if_neg hx]
  · rw [State.advance_reg, State.reg_flagThenResult_VF s _ _ hx, highBitFlag_toNat]
  · rintro rfl
    have hbyte := (s.reg VF).isLt
    rw [State.advance_reg, State.reg_flagThenResult_self, toNat_byte_shiftLeft_one, State.reg_setReg_self,
      highBitFlag_toNat]
    split <;> omega

theorem flagOf_eq_zero_or_one (c : Bool) : flagOf c = 0#8 ∨ flagOf c = 1#8 := by cases c <;> decide

theorem lowBitFlag_eq_zero_or_one (a : Byte) : lowBitFlag a = 0#8 ∨ lowBitFlag a = 1#8 := by
  have h := lowBitFlag_toNat a
  bv_omega

/-- Settles O26: the flag of the five ALU forms is a `flagOf` or the low bit of a byte, and the collision is a `flagOf`. -/
theorem flagValuesAreZeroOrOne : Obligations.FlagValuesAreZeroOrOne := by
  rintro i x y n s t (⟨hmem, hx⟩ | rfl) h
  · simp only [List.mem_cons, List.not_mem_nil, or_false] at hmem
    have hflag (flag result : State → Byte) (hbit : flag s = 0#8 ∨ flag s = 1#8) :
        (s.flagThenResult x flag result).advance.reg VF = 0#8 ∨
          (s.flagThenResult x flag result).advance.reg VF = 1#8 := by
      rwa [State.advance_reg, State.reg_flagThenResult_VF s _ _ hx]
    obtain rfl | rfl | rfl | rfl | rfl := hmem <;> cases h
    · exact hflag _ _ (flagOf_eq_zero_or_one _)
    · exact hflag _ _ (flagOf_eq_zero_or_one _)
    · exact hflag _ _ (lowBitFlag_eq_zero_or_one _)
    · exact hflag _ _ (flagOf_eq_zero_or_one _)
    · exact hflag _ _ (flagOf_eq_zero_or_one _)
  · obtain ⟨sprite, -, rfl⟩ := execDXYN_eq_next.mp h
    simpa using flagOf_eq_zero_or_one _

/-! ### The index register -/

/-- A byte keeps its value when it is extended to 16 bits (R73). -/
theorem toNat_zext16_byte (b : Byte) : (zext16 b).toNat = b.toNat :=
  BitVec.toNat_setWidth_of_le (by decide)

/-- Settles O28: each form is one write of I; the sum wraps at 16 bits, five times a byte does not. -/
theorem addToIndexAndFontAddress : Obligations.AddToIndexAndFontAddress := by
  intro x s
  refine ⟨⟨_, rfl, ?_, advanced_setI_advance s _⟩, ⟨_, rfl, ?_, advanced_setI_advance s _⟩⟩
  · rw [State.advance_i, State.setI_i, BitVec.toNat_add, toNat_zext16_byte]
  · have hbyte := (s.reg x).isLt
    have hzext := toNat_zext16_byte (s.reg x)
    rw [State.advance_i, State.setI_i]
    bv_omega

/-! ### Self-modifying code -/

/-- Settles O32: V0 and V1 stand at I and I + 1, and the store's bounds put both inside memory. -/
theorem storeIsSeenByTheNextFetch : Obligations.StoreIsSeenByTheNextFetch := by
  intro x s t hx h
  obtain ⟨hbounds, rfl⟩ := storeAtI_eq_next.mp h
  have htop : s.i.toNat + x.toNat ≤ 0xFFF := inBounds_succ_iff.mp (s.regsUpTo_length x ▸ hbounds)
  have hstored (k : RegId) (hk : k.toNat ≤ x.toNat) :
      (s.mem.writeFrom s.base (s.regsUpTo x)).read (s.base + k.toNat) = s.reg k :=
    Memory.read_writeFrom_at _ _ _ _ _ (s.regsUpTo_getElem? x k hk)
  have hv0 := hstored 0#4 (Nat.zero_le _)
  have hv1 := hstored 1#4 hx
  refine State.fetchWord?_eq_some.mpr ⟨?_, ?_⟩
  · simp only [State.setPc_pc]
    omega
  · exact congrArg₂ (fun hi lo : Byte => hi ++ lo) hv0.symm hv1.symm

/-! ### The key skips -/

/-- The key named by a byte is down (R31, R160). -/
theorem State.isDown_eq_true_of_key {s : State} {b : Byte} (h : ∃ k : Fin 16, k.val = b.toNat ∧ s.keys[k] = true) :
    s.isDown b = true := by
  obtain ⟨k, hk, hdown⟩ := h
  have hlt : b.toNat < 16 := hk ▸ k.isLt
  exact State.isDown_eq_true.mpr ⟨hlt, by simpa [hk] using hdown⟩

/-- No key named by a byte is down, a byte above 0xF naming none (R31, R160). -/
theorem State.isDown_eq_false_of_key {s : State} {b : Byte} (h : ∀ k : Fin 16, k.val = b.toNat → s.keys[k] = false) :
    s.isDown b = false := by
  refine Bool.eq_false_iff.mpr fun hdown => ?_
  obtain ⟨hlt, hkey⟩ := State.isDown_eq_true.mp hdown
  exact absurd hkey (by simpa using h ⟨b.toNat, hlt⟩ rfl)

/-- Settles O37: the two skips test one flag and its negation. -/
theorem skipsOnKeys : Obligations.SkipsOnKeys := by
  intro x s
  refine ⟨⟨_, rfl, sameExcept_skipIf s _, fun h => ?_, fun h => ?_⟩,
    ⟨_, rfl, sameExcept_skipIf s _, fun h => ?_, fun h => ?_⟩⟩
  · simp [State.isDown_eq_true_of_key h]
  · simp [State.isDown_eq_false_of_key h]
  · simp [State.isDown_eq_true_of_key h]
  · simp [State.isDown_eq_false_of_key h]

/-! ### The random byte -/

/-- Settles O42: the byte written is the free byte masked, and a mask only clears bits. -/
theorem randomByteMasked : Obligations.RandomByteMasked := by
  intro x nn s
  have hreg (b : Byte) : (s.setReg x b).countDraw.advance.reg x = b := State.reg_setReg_self s x b
  refine ⟨_, rfl, hreg _, fun b _ hclear => ?_, rfl, advanced_setReg_countDraw_advance s x _⟩
  rw [hreg, BitVec.getLsbD_and, hclear, Bool.and_false]

end Sys2Proof.Machine
end

section
/-! The statements about drawing (44_display.md): what a draw leaves in the framebuffer and in VF, once; the statements are read
off it. -/

namespace Sys2Proof.Machine

/-- Settles O33: every cell of the framebuffer written is off. -/
theorem clearScreen : Obligations.ClearScreen :=
  fun s => ⟨_, rfl, Framebuffer.cell_clear, rfl, advanced_setFb_setRedraw_advance s _ _⟩

/-! ### One sprite -/

/-- The cells a sprite of at most 32 rows changes are those its 1 bits cover (R152, R153). -/
theorem drawSprite_cell_ne_iff (f : Framebuffer) (x0 y0 : Nat) {sprite : List Byte} (hlen : sprite.length ≤ 32)
    (q : Pixel) :
    (drawSprite f x0 y0 sprite).1.cell q ≠ f.cell q ↔ Covers sprite x0 y0 q.1.val q.2.val := by
  have hcell := drawSprite_cell f x0 y0 sprite hlen q
  by_cases hcovers : Covers sprite x0 y0 q.1.val q.2.val <;> simp_all

/-- The collision is that some cell is turned off (R153). -/
theorem drawSprite_collision_iff (f : Framebuffer) (x0 y0 : Nat) {sprite : List Byte} (hlen : sprite.length ≤ 32) :
    (drawSprite f x0 y0 sprite).2 = true ↔
      ∃ q : Pixel, f.cell q = true ∧ (drawSprite f x0 y0 sprite).1.cell q = false := by
  rw [drawSprite_collision f x0 y0 sprite hlen]
  refine exists_congr fun q => and_congr_right fun hon => ?_
  rw [← drawSprite_cell_ne_iff f x0 y0 hlen q, hon, ne_eq, Bool.not_eq_true]

/-! ### The draw -/

/-- The sprite a draw reads: N bytes from I up (R151). -/
def State.spriteAtI (s : State) (n : Nibble) : List Byte := s.mem.readFrom s.base n.toNat

theorem State.spriteAtI_length_le (s : State) (n : Nibble) : (s.spriteAtI n).length ≤ 32 := by
  have hn := n.isLt
  rw [State.spriteAtI, Memory.readFrom_length]
  omega

/-- The framebuffer and the collision a draw leaves. -/
def State.drawn (x y : RegId) (n : Nibble) (s : State) : Framebuffer × Bool :=
  drawSprite s.fb (s.reg x).toNat (s.reg y).toNat (s.spriteAtI n)

/-- The state a draw leaves. -/
def State.afterDraw (x y : RegId) (n : Nibble) (s : State) : State :=
  (((s.setFb (s.drawn x y n).1).setReg VF (flagOf (s.drawn x y n).2)).setRedraw true).advance

/-- A draw completes exactly when its last byte, if it has one, is inside memory (R151, R154). -/
theorem execDXYN_eq_next_afterDraw {x y : RegId} {n : Nibble} {s t : State} :
    execDXYN x y n s = .next t ↔ inBounds s.base n.toNat = true ∧ t = s.afterDraw x y n := by
  rw [execDXYN_eq_next]
  constructor
  · rintro ⟨sprite, hread, rfl⟩
    obtain ⟨hbounds, rfl⟩ := Memory.readBytes?_eq_some.mp hread
    exact ⟨hbounds, rfl⟩
  · rintro ⟨hbounds, rfl⟩
    exact ⟨_, Memory.readBytes?_eq_some.mpr ⟨hbounds, rfl⟩, rfl⟩

theorem cell_afterDraw_ne_iff (x y : RegId) (n : Nibble) (s : State) (p : Pixel) :
    (s.afterDraw x y n).fb.cell p ≠ s.fb.cell p ↔
      Covers (s.spriteAtI n) (s.reg x).toNat (s.reg y).toNat p.1.val p.2.val :=
  drawSprite_cell_ne_iff _ _ _ (s.spriteAtI_length_le n) p

/-- VF after a draw is 1 when some cell was turned off. -/
theorem reg_VF_afterDraw_of_off {x y : RegId} {n : Nibble} {s : State}
    (h : ∃ p : Pixel, s.fb.cell p = true ∧ (s.afterDraw x y n).fb.cell p = false) :
    (s.afterDraw x y n).reg VF = 1#8 := by
  have hcollision : (s.drawn x y n).2 = true := (drawSprite_collision_iff _ _ _ (s.spriteAtI_length_le n)).mpr h
  simp [State.afterDraw, hcollision, flagOf]

/-- VF after a draw is 0 when no cell was turned off. -/
theorem reg_VF_afterDraw_of_on {x y : RegId} {n : Nibble} {s : State}
    (h : ∀ p : Pixel, s.fb.cell p = true → (s.afterDraw x y n).fb.cell p = true) :
    (s.afterDraw x y n).reg VF = 0#8 := by
  have hcollision : (s.drawn x y n).2 = false := by
    refine Bool.eq_false_iff.mpr fun hcollision => ?_
    obtain ⟨p, hon, hoff⟩ := (drawSprite_collision_iff _ _ _ (s.spriteAtI_length_le n)).mp hcollision
    exact absurd (h p hon) (Bool.eq_false_iff.mp hoff)
  simp [State.afterDraw, hcollision, flagOf]

/-! ### The statements -/

/-- Settles O34: a sprite given byte by byte is the one at I. -/
theorem drawSpriteByXor : Obligations.DrawSpriteByXor := by
  intro x y n s sprite htop hlen hbytes
  have hsprite : s.spriteAtI n = sprite := by
    refine List.ext_getElem? fun r => ?_
    rw [State.spriteAtI, Memory.readFrom_getElem?]
    split
    · next hr => exact (hbytes r hr).symm
    · next hr => exact (List.getElem?_eq_none (by omega)).symm
  have hbounds : inBounds s.base n.toNat = true := by
    rw [inBounds_iff]
    omega
  refine ⟨_, execDXYN_eq_next_afterDraw.mpr ⟨hbounds, rfl⟩, fun p => ?_, reg_VF_afterDraw_of_off, reg_VF_afterDraw_of_on,
    rfl, ?_⟩
  · rw [cell_afterDraw_ne_iff, hsprite]
  · exact advanced_setFb_setReg_setRedraw_advance s _ _ _ _

/-- A second draw at the same place changes the cells the first one changed, and no other (R155). -/
theorem cell_afterDraw_afterDraw_ne_iff {x y : RegId} (hx : x ≠ VF) (hy : y ≠ VF) (n : Nibble) (s : State) (p : Pixel) :
    ((s.afterDraw x y n).afterDraw x y n).fb.cell p ≠ (s.afterDraw x y n).fb.cell p ↔
      (s.afterDraw x y n).fb.cell p ≠ s.fb.cell p := by
  have hsprite : (s.afterDraw x y n).spriteAtI n = s.spriteAtI n := rfl
  have hregx : (s.afterDraw x y n).reg x = s.reg x := by simp [State.afterDraw, hx]
  have hregy : (s.afterDraw x y n).reg y = s.reg y := by simp [State.afterDraw, hy]
  rw [cell_afterDraw_ne_iff, cell_afterDraw_ne_iff, hsprite, hregx, hregy]

/-- Two draws at the same place restore every cell: one changed twice, or never, is what it was (R155). -/
theorem cell_afterDraw_afterDraw {x y : RegId} (hx : x ≠ VF) (hy : y ≠ VF) (n : Nibble) (s : State) (p : Pixel) :
    ((s.afterDraw x y n).afterDraw x y n).fb.cell p = s.fb.cell p := by
  have hsame := cell_afterDraw_afterDraw_ne_iff hx hy n s p
  revert hsame
  cases ((s.afterDraw x y n).afterDraw x y n).fb.cell p <;> cases (s.afterDraw x y n).fb.cell p <;>
    cases s.fb.cell p <;> decide

/-- Settles O36: a cell the first draw turns on the second turns off. -/
theorem drawingTwiceRestoresTheScreen : Obligations.DrawingTwiceRestoresTheScreen := by
  intro x y n s t hx hy h
  obtain ⟨hbounds, rfl⟩ := execDXYN_eq_next_afterDraw.mp h
  refine ⟨_, execDXYN_eq_next_afterDraw.mpr ⟨hbounds, rfl⟩, cell_afterDraw_afterDraw hx hy n s, ?_⟩
  rintro ⟨p, hp⟩ hoff
  refine ⟨reg_VF_afterDraw_of_on fun q hon => ?_, reg_VF_afterDraw_of_off ⟨p, ?_, ?_⟩⟩
  · by_contra hne
    exact absurd hon (by simp [hoff q (by rwa [hon])])
  · simpa [hoff p hp] using hp
  · rw [cell_afterDraw_afterDraw hx hy, hoff p hp]

end Sys2Proof.Machine
end

section
/-! The statements about events (10_state.md section 12, 60_exceptions.md, 70_reset_and_hazards.md): the key events, the load
and its window, REDRAW, faults that recur, and reset. -/

namespace Sys2Proof.Machine

/-! ### The key events -/

/-- A write of the keypad latch keeps every frame that leaves the keys free. -/
theorem SameExcept.setKey {parts : List Part} {s t : State} (h : SameExcept parts s t) (k : Fin 16) (down : Bool)
    (hkeys : Part.keys ∈ parts) : SameExcept parts s (t.setKey k down) := by
  intro p hp
  cases p with
  | keys => exact absurd hkeys hp
  | _ => exact h _ hp

/-- A key event for one of the 16 keys writes that key's flag alone (R197, R198). -/
theorem exists_next_of_setKeyChecked {id : Byte} (down : Bool) (s : State) (hid : id.toNat ≤ 0xF) :
    ∃ t, setKeyChecked id down s = .next t ∧
      (∀ k : Fin 16, t.keys[k] = if k.val = id.toNat then down else s.keys[k]) ∧ SameExcept [.keys] s t := by
  have hkey : id.toNat < 16 := Nat.lt_succ_of_le hid
  refine ⟨_, setKeyChecked_eq_next.mpr ⟨hkey, rfl⟩, fun k => ?_, (SameExcept.refl _ s).setKey _ _ (by simp)⟩
  simp [Vector.getElem_set, eq_comm]

/-- A key event for an identifier above 0xF (R185). -/
theorem setKeyChecked_of_invalid {id : Byte} (down : Bool) (s : State) (hid : id.toNat > 0xF) :
    setKeyChecked id down s = .fault (.invalidKey id) :=
  dif_neg (Nat.not_lt.mpr hid)

/-- Settles O44: press and release are one event with two values of the flag. -/
theorem keyEventsSetAndClear : Obligations.KeyEventsSetAndClear :=
  fun _ s => ⟨fun hid => ⟨exists_next_of_setKeyChecked true s hid, exists_next_of_setKeyChecked false s hid⟩,
    fun hid => ⟨setKeyChecked_of_invalid true s hid, setKeyChecked_of_invalid false s hid⟩⟩

/-! ### The load -/

/-- Settles O45: a load that fits is one store from 0x200 up. -/
theorem loadProgramCopiesTheImage : Obligations.LoadProgramCopiesTheImage := by
  intro bytes s
  refine ⟨fun hlen => ⟨_, loadProgram_eq_next.mpr ⟨hlen, rfl⟩, fun k b => ?_, fun a => ?_, ?_⟩, fun hlen => ?_⟩
  · exact Memory.read_writeFrom_at s.mem 0x200 k bytes b
  · exact Memory.read_writeFrom_outside s.mem 0x200 a bytes
  · exact (SameExcept.refl _ s).setMem _ (by simp)
  · simp [loadProgram, imageWellFormed, Nat.not_le.mpr hlen]

/-- No event but a reset opens the window (R213). -/
theorem applyEvents_loadWindow_eq_false {evs : List Event} {e : Session} (hreset : Event.reset ∉ evs)
    (hwindow : e.loadWindow = false) : (applyEvents evs e).loadWindow = false := by
  refine applyEvents_induction (P := fun e => e.loadWindow = false) (fun ev hev e he => ?_) hwindow
  simp [applyEvent_loadWindow, ne_of_mem_of_not_mem hev hreset, he]

/-- No event but a step closes the window (R213). -/
theorem applyEvents_loadWindow_eq_true {evs : List Event} {e : Session} (hstep : Event.step ∉ evs)
    (hwindow : e.loadWindow = true) : (applyEvents evs e).loadWindow = true := by
  refine applyEvents_induction (P := fun e => e.loadWindow = true) (fun ev hev e he => ?_) hwindow
  simp [applyEvent_loadWindow, ne_of_mem_of_not_mem hev hstep, he]

/-- A load outside the window is refused (R213). -/
theorem applyEvent_loadProgram_of_closed {e : Session} (bytes : List Byte) (h : e.loadWindow = false) :
    applyEvent (.loadProgram bytes) e = (e, .refused .loadAfterFirstStep) := by
  simp [applyEvent, h]

/-- A load of an image that fits is accepted inside the window (R212). -/
theorem applyEvent_loadProgram_of_open {e : Session} {bytes : List Byte} (h : e.loadWindow = true)
    (hlen : bytes.length ≤ 0xE00) : (applyEvent (.loadProgram bytes) e).2 = .ok := by
  simp [applyEvent, h, loadProgram_eq_next.mpr ⟨hlen, rfl⟩, Session.after]

/-- Settles O49: a step closes the window and a reset opens it. -/
theorem loadOnlyBeforeTheFirstStep : Obligations.LoadOnlyBeforeTheFirstStep := by
  intro bytes evs e
  refine ⟨fun hreset => ?_, fun hstep hlen => ?_⟩
  · have hclosed : (applyEvent .step e).1.loadWindow = false := by simp [applyEvent_loadWindow]
    exact applyEvent_loadProgram_of_closed bytes (applyEvents_loadWindow_eq_false hreset hclosed)
  · have hopen : (applyEvent .reset e).1.loadWindow = true := by simp [applyEvent_loadWindow]
    exact applyEvent_loadProgram_of_open (applyEvents_loadWindow_eq_true hstep hopen) hlen

/-! ### REDRAW -/

/-- No instruction clears REDRAW: `00E0` and `DXYN` set it, and it is outside the frame of every other (R33). -/
theorem redraw_of_exec_eq_next {i : Instr} {s t : State} (hredraw : s.redraw = true) (h : exec i s = .next t) :
    t.redraw = true := by
  cases i with
  | op00E0 => cases h; rfl
  | opDXYN =>
    obtain ⟨sprite, -, rfl⟩ := execDXYN_eq_next.mp h
    rfl
  | _ =>
    obtain ⟨hframe, -⟩ := keepsFrame_of_exec_eq_next h
    exact (hframe .redraw (by simp [partsWritten])).trans hredraw

/-- No step clears REDRAW (R33). -/
theorem redraw_of_step_eq_next {s t : State} (hredraw : s.redraw = true) (h : step s = .next t) : t.redraw = true := by
  obtain ⟨hmode, -⟩ | ⟨-, i, -, hexec⟩ := step_eq_next.mp h
  · obtain ⟨k, rfl⟩ | rfl := step_of_awaitingKey hmode h <;> exact hredraw
  · exact redraw_of_exec_eq_next hredraw hexec

/-- Every event but a taken redraw and a reset keeps REDRAW set (R33). -/
theorem redraw_of_coreAfter {ev : Event} {s t : State} (hredraw : s.redraw = true) (hreset : ev ≠ .reset)
    (htake : ev ≠ .takeRedraw) (h : CoreAfter s ev t) : t.redraw = true := by
  cases h with
  | reset => exact absurd rfl hreset
  | redrawTaken => exact absurd rfl htake
  | stepped t hnext => exact redraw_of_step_eq_next hredraw hnext
  | unchanged | loaded | ticked | pressed | released => exact hredraw

/-- Settles O47: the step is the only other event that could write REDRAW. -/
theorem redrawStaysSetUntilTaken : Obligations.RedrawStaysSetUntilTaken :=
  fun ev e hredraw hreset htake => redraw_of_coreAfter hredraw hreset htake (coreAfter_applyEvent ev e)

/-! ### Faults -/

/-- An event that raises a fault leaves the core as it was (R186). -/
theorem core_of_applyEvent_eq_raised {ev : Event} {e : Session} {f : Fault} (h : (applyEvent ev e).2 = .raised f) :
    (applyEvent ev e).1.core = e.core := by
  cases ev with
  | reset | tick | takeRedraw => cases h
  | step | keyPress | keyRelease =>
    obtain ⟨-, hcore⟩ := Session.after_eq_raised (by simp) h
    exact hcore
  | loadProgram bytes =>
    by_cases hwindow : e.loadWindow = true
    · simp only [applyEvent, hwindow, ↓reduceIte] at h ⊢
      obtain ⟨-, hcore⟩ := Session.after_eq_raised (by simp) h
      exact hcore
    · simp [applyEvent, hwindow] at h

/-- What a step answers depends on the core alone. -/
theorem applyEvent_step_congr {e e' : Session} (h : e'.core = e.core) :
    (applyEvent .step e').2 = (applyEvent .step e).2 := by
  simp only [applyEvent, h]
  cases step e.core <;> rfl

/-- Settles O48: after the fault the step finds the core it found before. -/
theorem faultingEventsChangeNothing : Obligations.FaultingEventsChangeNothing := by
  intro ev e f h
  have hcore := core_of_applyEvent_eq_raised h
  refine ⟨hcore, ?_⟩
  rintro rfl
  exact (applyEvent_step_congr hcore).trans h

/-! ### Reset -/

/-- Above the font an address nothing has written reads as 0x00 (R51). -/
theorem Memory.unlisted_of_above_font {a : Nat} (h : 0x50 ≤ a) : Memory.unlisted a = 0x00#8 :=
  List.getD_eq_default font 0x00#8 h

/-- The reset state, for any count of draws, holds the values of R38. -/
theorem hasResetValues_reset : HasResetValues State.reset := by
  refine ⟨rfl, rfl, fun r => ?_, rfl, rfl, fun k => ?_, rfl, rfl, fun k => ?_, Framebuffer.cell_clear, rfl, rfl,
    fun a => Memory.unlisted_of_above_font, by decide⟩
  · simp [State.reg, State.reset]
  · simp [State.reset]
  · simp [State.reset]

/-- Settles O50: a reset leaves the values of construction, its count of draws apart. -/
theorem resetValues : Obligations.ResetValues :=
  ⟨hasResetValues_reset, fun _ => ⟨rfl, hasResetValues_reset⟩⟩

/-- Settles O51: the two bytes at 0x200 are 0x00, and the word 0x0000 does not decode. -/
theorem stepBeforeLoadFaults : Obligations.StepBeforeLoadFaults :=
  step_of_decodeWord_eq_none (s := State.reset) rfl (w := 0x0000#16) rfl rfl

/-! ### The framebuffer snapshot -/

/-- Rows of one length n put end to end: element i * n + j is element j of row i. -/
theorem getElem?_flatten_of_length {α : Type} {n : Nat} {rows : List (List α)} (hlen : ∀ row ∈ rows, row.length = n)
    {i j : Nat} {row : List α} (hrow : rows[i]? = some row) (hj : j < n) : rows.flatten[i * n + j]? = row[j]? := by
  induction rows generalizing i with
  | nil => simp at hrow
  | cons first rows ih =>
    have hfirst : first.length = n := hlen first (by simp)
    cases i with
    | zero =>
      obtain rfl := Option.some.inj hrow
      simp [List.getElem?_append_left (hfirst ▸ hj)]
    | succ i =>
      have hplace : (i + 1) * n + j = first.length + (i * n + j) := by rw [hfirst]; ring
      rw [List.flatten_cons, hplace, List.getElem?_append_right (Nat.le_add_right _ _), Nat.add_sub_cancel_left]
      exact ih (fun row hmem => hlen row (by simp [hmem])) hrow

/-- Settles O52: the snapshot is 32 rows of 64 cells put end to end. -/
theorem snapshotIsRowMajor : Obligations.SnapshotIsRowMajor := by
  intro s
  have hlen : ∀ row ∈ s.fb.toList.map Vector.toList, row.length = 64 := by
    simp
  refine ⟨?_, fun p => ?_⟩
  · simp [snapshot, List.length_flatten, Function.comp_def]
  · have hrow : (s.fb.toList.map Vector.toList)[p.2.val]? = some s.fb[p.2].toList := by simp
    rw [snapshot, getElem?_flatten_of_length hlen hrow p.1.isLt]
    simp [Framebuffer.cell]

end Sys2Proof.Machine
end
